-- ==== Sys2Proof/Word.lean ====
section
/-! DEFINITION. The words of the station: bytes, station clock readings, ranks, and the ends of the ranges the
manual gives its numbers. Quantities that saturate or are held at an end are `Nat`; what wraps is a bit vector. -/

namespace Sys2Proof

/-- One byte of a frame, a record or a request (12, opening). -/
abbrev Byte := BitVec 8

/-- A reading of the station clock: 32 bits of milliseconds, wrapping (R143). -/
abbrev Time := BitVec 32

/-- A station's rank, 0 to 7 (00_scope, "Ranks and reach"). -/
abbrev Rank := Fin 8

/-- 4,294,967,295: the end of every 32-bit quantity that does not wrap (R7, R30, R37, R82, R104, R181). -/
def max32 : Nat := 4294967295

/-- 65,535: where the 16-bit saturating counters stay (R19, R30, R132, R160, R195). -/
def max16 : Nat := 65535

/-- 16,000,000 g: the largest entry amount, reservation and expected draw (00_scope, "Mass"). -/
def maxMass : Nat := 16000000

end Sys2Proof
end

