-- ==== Sys2Proof/Syntax.lean ====
section
/-! DEFINITION. The commands of the station: one constructor per row of spec/opcode_table.json, with the data the
row's rule gives the event. -/

namespace Sys2Proof

/-- A drive channel (R132). -/
inductive Channel where
  | lead | trail | travel
  deriving DecidableEq, Repr

/-- A hook, with its contact line (R144). -/
inductive Hook where
  | lead | trail
  deriving DecidableEq, Repr

/-- A kettle link frame as it was read off the line at its end (R155, R156). `chars` are its characters from the
start-of-frame character to the last one read; `stopBitsGood` says that every stop bit read recessive and that the
frame did not break off; `noisy` that three samples of some bit disagreed; `fromStart` that the station saw the
frame's start after it began to take frames (R150). -/
structure WireFrame where
  chars : List Byte
  stopBitsGood : Bool
  noisy : Bool
  fromStart : Bool
  deriving DecidableEq, Repr

/-- A segment as LOAD_PROGRAM sends it: kind byte, flags byte and the eight operand bytes (R212). -/
structure RawSegment where
  kind : Byte
  flags : Byte
  operands : List Byte
  deriving DecidableEq, Repr

/-- The commands. Each constructor's comment names the rule of its row. -/
inductive Instr where
  /-- POWER_ON (R166). -/
  | powerOn
  /-- RESET_ASSERTED (R166). -/
  | resetAsserted
  /-- RESET_RELEASED (R166). -/
  | resetReleased
  /-- START_UP_SCAN_END (R193). -/
  | startUpScanEnd
  /-- STOP_INPUT_ASSERTED (R116). -/
  | stopInputAsserted
  /-- STOP_INPUT_RELEASED (R116). -/
  | stopInputReleased
  /-- PROTECT_INPUT_CHANGE (R191): the level the input has taken. -/
  | protectInputChange (asserted : Bool)
  /-- CONTACT_EDGE (R146): the hook, its new level, and the clock reading when the line first took it (R144). -/
  | contactEdge (hook : Hook) (on : Bool) (since : Time)
  /-- FRAME_END (R156): the frame as it was read. -/
  | frameEnd (frame : WireFrame)
  /-- CLAIM_TAKEN (R12). The twelve dispatch rows take the oldest HOLDING frame (R159). -/
  | claimTaken
  /-- VERDICT_TAKEN (R16). -/
  | verdictTaken
  /-- RELEASE_TAKEN (R23). -/
  | releaseTaken
  /-- VACATE_TAKEN (R28). -/
  | vacateTaken
  /-- ENTRY_TAKEN (R41). -/
  | entryTaken
  /-- GAP_TAKEN (R49). -/
  | gapTaken
  /-- GONE_TAKEN (R50). -/
  | goneTaken
  /-- FETCH_TAKEN (R62). -/
  | fetchTaken
  /-- SNAPSHOT_TAKEN (R63). -/
  | snapshotTaken
  /-- BEACON_TAKEN (R38). -/
  | beaconTaken
  /-- JOIN_TAKEN (R175). -/
  | joinTaken
  /-- STATE_TAKEN (R27). -/
  | stateTaken
  /-- IDLE_GAP_EXPIRY (R152). -/
  | idleGapExpiry
  /-- LOST_ARBITRATION (R153). -/
  | lostArbitration
  /-- FRAME_SENT (R154). -/
  | frameSent
  /-- LINE_BREAK_DETECTED (R162). -/
  | lineBreakDetected
  /-- LINE_BREAK_RELEASED (R164). -/
  | lineBreakReleased
  /-- BREAK_DRIVE_END (R163). -/
  | breakDriveEnd
  /-- ANSWER_WINDOW_EXPIRY (R19): the number of the own claim whose window expires. -/
  | answerWindowExpiry (number : BitVec 16)
  /-- FETCH_TIMER_EXPIRY (R61). -/
  | fetchTimerExpiry
  /-- CLAIM_WAIT_EXPIRY (R79). -/
  | claimWaitExpiry
  /-- DWELL_TIMER_EXPIRY (R102). -/
  | dwellTimerExpiry
  /-- DRAIN_TIMER_EXPIRY (R103). -/
  | drainTimerExpiry
  /-- SETTLE_TIMER_EXPIRY (R104). -/
  | settleTimerExpiry
  /-- DRIVE_SEND_END (R134). -/
  | driveSendEnd
  /-- ARRIVED (R136): the channel and the target reached, mm. -/
  | arrived (channel : Channel) (target : Int)
  /-- REPORT (R141): the channel, its position in mm, its load in g, and whether the drive is in motion. -/
  | report (channel : Channel) (position : Int) (load : Nat) (moving : Bool)
  /-- FAULT (R139): the channel and the fault code, 1 to 255. -/
  | fault (channel : Channel) (code : Byte)
  /-- READY (R139). -/
  | ready (channel : Channel)
  /-- DRIVE_EVENT_DISCARDED (R140). -/
  | driveEventDiscarded
  /-- MOVE_TIMER_EXPIRY (R138). -/
  | moveTimerExpiry (channel : Channel)
  /-- STOP_ALLOWANCE_EXPIRY (R137). -/
  | stopAllowanceExpiry (channel : Channel)
  /-- SILENCE_TIMER_EXPIRY (R172). -/
  | silenceTimerExpiry (rank : Rank)
  /-- BEACON_TIMER_EXPIRY (R173). -/
  | beaconTimerExpiry
  /-- JOIN_WINDOW_EXPIRY (R176). -/
  | joinWindowExpiry
  /-- COMMIT_END (R185): whether the read-back matched. -/
  | commitEnd (isMatch : Bool)
  /-- ERASE_END (R187): the offsets in the section of the pages that do not read EMPTY (none when the erase took). -/
  | eraseEnd (notEmpty : List Nat)
  /-- AREA_WRITE_END (R191): whether the read-back matched. -/
  | areaWriteEnd (isMatch : Bool)
  /-- REQUEST_PAUSE_TIMEOUT (R196). -/
  | requestPauseTimeout
  /-- REQUEST_CHECK_FAILED (R196). -/
  | requestCheckFailed
  /-- REQUEST_IGNORED (R198). -/
  | requestIgnored
  /-- UNKNOWN_REQUEST (R196): the code as received. -/
  | unknownRequest (code : Byte)
  /-- ANSWER_SENT (R195). -/
  | answerSent
  /-- STATUS (R200). -/
  | status
  /-- ACKNOWLEDGE (R201): the flag mask (R212). -/
  | acknowledge (mask : BitVec 16)
  /-- READ_ACCOUNT (R202). -/
  | readAccount
  /-- READ_TABLE (R202). -/
  | readTable
  /-- READ_JOB_LIST (R202). -/
  | readJobList
  /-- READ_IDENTITY (R202). -/
  | readIdentity
  /-- SUBMIT_JOB (R72): tag, slot, span, expected draw in g, claim wait limit in s. -/
  | submitJob (tag : BitVec 16) (slot first last draw limit : Nat)
  /-- CANCEL_JOB (R88): tag. -/
  | cancelJob (tag : BitVec 16)
  /-- LOAD_PROGRAM (R94): slot and segments; the segment count is their number (R196). -/
  | loadProgram (slot : Nat) (segments : List RawSegment)
  /-- READ_PROGRAM (R92): slot. -/
  | readProgram (slot : Nat)
  /-- CHARGE (R35): mass in g. -/
  | charge (mass : Nat)
  /-- SKIM (R35): mass in g. -/
  | skim (mass : Nat)
  /-- ADJUST (R35): signed correction in g. -/
  | adjust (mass : Int)
  /-- CHECKPOINT (R68). -/
  | checkpoint
  /-- PAUSE (R120). -/
  | pause
  /-- RESUME (R127). -/
  | resume
  /-- ALL_STOP (R116). -/
  | allStop
  /-- LIFT_CLEAR (R203). -/
  | liftClear
  /-- VACATE, the host request (R28): the rank named. -/
  | vacate (rank : Nat)
  /-- READ_LOG (R192): first page and count. -/
  | readLog (page count : Nat)
  /-- LOCK_SECTIONS (R190): first and last section. -/
  | lockSections (first last : Nat)
  /-- UNLOCK_SECTIONS (R191): first and last section. -/
  | unlockSections (first last : Nat)
  /-- WRITE_CONFIG (R205): bytes 0 to 47 of the configuration record (R210). -/
  | writeConfig (bytes : List Byte)
  deriving DecidableEq, Repr

end Sys2Proof
end

