-- ==== Sys2Proof/Machine/State.lean ====
section
/-! DEFINITION. The state of one station, block by block as 00_scope ("The blocks of the station") divides it, the
reasons a step can stop, and the state right after reset. -/

namespace Sys2Proof.Machine

/-! ## Common things -/

/-- A running timer: its start time and its length in ms (R143). A stopped timer is an absent one. -/
structure Timer where
  start : Time
  length : Nat
  deriving DecidableEq, Repr

/-- A span of cells, first to last inclusive (00_scope, "Cells and spans"). -/
structure Span where
  first : Nat
  last : Nat
  deriving DecidableEq, Repr

/-! ## Configuration in force and station states -/

/-- The configured values (R210). A rank with no entry in the reach table has `none`. -/
structure ConfigRecord where
  ownRank : Rank
  cells : Nat
  cellLength : Nat
  reach : Vector (Option Span) 8
  beaconPeriod : Nat
  floor : Nat
  clear : Int
  answerWindow : Nat
  lowerLimit : Int
  upperLimit : Int
  slowSpeed : Nat
  liftSpeed : Nat
  travelSpeed : Nat
  syncTolerance : Nat
  deriving DecidableEq, Repr

/-- The station state (R165). -/
inductive StationState where
  | offline | loading | listening | active | isolated
  deriving DecidableEq, Repr

/-- The last reset cause (R166). -/
inductive ResetCause where
  | powerOn | resetInput
  deriving DecidableEq, Repr

/-- The isolation reason (R177). -/
inductive IsolationReason where
  | identityInvalid | configInvalid | rankClash | digestMismatch
  deriving DecidableEq, Repr

/-- The account state (R31). -/
inductive AccountState where
  | starting | synced | gapped | rebasing
  deriving DecidableEq, Repr

/-! ## Claims -/

/-- A claim's kind (R2). -/
inductive ClaimKind where
  | dip | shift | recovery
  deriving DecidableEq, Repr

/-- The state a STALE entry stood in when it became STALE (R2, R25). -/
inductive PriorState where
  | noted | deferred | granted
  deriving DecidableEq, Repr

/-- How a rank in a grant set is marked (R2). -/
inductive GrantMark where
  | unanswered | deferred
  deriving DecidableEq, Repr

/-- A rank that still owes a verdict, with its mark (R2). -/
structure GrantSlot where
  rank : Rank
  mark : GrantMark
  deriving DecidableEq, Repr

/-- The six states of an entry (R3), each with the fields that are present in it alone (R2): an own REQUESTING
entry has its grant set, send count and answer window; a STALE entry its prior state. -/
inductive ClaimState where
  | requesting (grants : List GrantSlot) (sendCount : Nat) (window : Timer)
  | held
  | noted
  | deferred
  | granted
  | stale (prior : PriorState)
  deriving DecidableEq, Repr

/-- An entry of the occupancy table (R2). `ticket` is the ticket value; with `origin` it is the ticket (R6). -/
structure ClaimEntry where
  origin : Rank
  number : BitVec 16
  kind : ClaimKind
  ticket : Nat
  span : Span
  reservation : Nat
  state : ClaimState
  jobTag : Option (BitVec 16)
  deriving DecidableEq, Repr

/-- The Claim Unit: occupancy table (R2) and own claim counter (R8). The entries are not ordered. -/
structure ClaimUnit where
  table : List ClaimEntry
  ownCounter : BitVec 16
  deriving DecidableEq, Repr

/-! ## Account -/

/-- An entry's kind (R34). -/
inductive EntryKind where
  | draw | charge | skim | adjust
  deriving DecidableEq, Repr

/-- An entry of the zinc account (R34). -/
structure Entry where
  origin : Rank
  seq : Nat
  kind : EntryKind
  amount : Int
  time : Time
  dipId : Option Nat
  deriving DecidableEq, Repr

/-- An open gap record (R45); a closed one is `none`. -/
structure OpenGap where
  target : Nat
  lastRequest : Time
  deriving DecidableEq, Repr

/-- A DRAW that waits for a rebase to end (R36). -/
structure DeferredDraw where
  draw : Nat
  dipId : Nat
  deriving DecidableEq, Repr

/-- The Account Unit (R30, R45, R59, R66). The floor stands in the configuration in force. `ownSpent` says that seq
4,294,967,295 has been originated: the own next sequence stays there (R37), so that only the mark tells the latest
originated seq of R49 from the one before it (log 53). -/
structure Account where
  balance : Nat
  committed : Nat
  applied : Vector Nat 8
  ownNext : Nat
  ownSpent : Bool
  state : AccountState
  retained : List Entry
  holding : List Entry
  gaps : Vector (Option OpenGap) 8
  deferredDraw : Option DeferredDraw
  clampCount : Nat
  sinceCheckpoint : Nat
  rebaseNumber : BitVec 16
  fetchTarget : Option Rank
  fetchTimer : Option Timer
  checkpointPending : Bool
  deriving DecidableEq, Repr

/-! ## Frames of the kettle link -/

/-- A frame's destination (R149). -/
inductive Dest where
  | all
  | rank (r : Rank)
  deriving DecidableEq, Repr

/-- A verdict (R13). -/
inductive Verdict where
  | grant | defer | refuse
  deriving DecidableEq, Repr

/-- A claim as a CLAIM frame carries it and as a STATE frame lists it (R206). -/
structure ListedClaim where
  number : BitVec 16
  kind : ClaimKind
  ticket : Nat
  span : Span
  reservation : Nat
  deriving DecidableEq, Repr

/-- What every identity frame carries (R168). -/
structure Identity where
  uniqueId : BitVec 64
  digest : BitVec 16
  state : StationState
  deriving DecidableEq, Repr

/-- The other fields of a BEACON (R173), which a peer record keeps (R168). -/
structure BeaconFields where
  ticketCounter : Nat
  census : List (BitVec 16)
  applied : Vector Nat 8
  ownSeq : Nat
  balance : Nat
  account : AccountState
  deriving DecidableEq, Repr

/-- The payload of each frame kind (R149, R206). `bath` is the refuse reason BATH. -/
inductive Payload where
  | verdict (number : BitVec 16) (v : Verdict) (bath : Bool)
  | release (number : BitVec 16)
  | vacate (rank : Rank)
  | claim (c : ListedClaim)
  | entry (seq : Nat) (kind : EntryKind) (amount : Int) (time : Time) (dipId : Option Nat)
  | gap (seq : Nat)
  | gone (seq : Nat)
  | fetch (number : BitVec 16)
  | snapshot (number : BitVec 16) (balance : Nat) (applied : Vector Nat 8)
  | beacon (id : Identity) (fields : BeaconFields)
  | join (id : Identity)
  | state (id : Identity) (ticketCounter : Nat) (account : AccountState) (claims : List ListedClaim)
  deriving DecidableEq, Repr

/-- A kettle link frame (R149). -/
structure Frame where
  origin : Rank
  dest : Dest
  payload : Payload
  deriving DecidableEq, Repr

/-- A taken frame in a receive buffer, with its completion order (R148, R158). -/
structure HeldFrame where
  frame : Frame
  order : Nat
  deriving DecidableEq, Repr

/-- The sending status (R148): IDLE, or SENDING the head frame. -/
inductive SendStatus where
  | idle
  | sending
  deriving DecidableEq, Repr

/-- The Link Interface (R148). `breakDrive` is the bit times left to hold, absent when OFF; `lineIdle` says that the
line has been recessive for the idle gap and nothing has been begun on it since (R152, log 9). -/
structure Link where
  queue : List Frame
  sending : SendStatus
  rxA : Option HeldFrame
  rxB : Option HeldFrame
  framing : Nat
  check : Nat
  noise : Nat
  overrun : Nat
  postDrop : Nat
  lostArbitration : Nat
  inBreak : Bool
  breakDrive : Option Nat
  lineIdle : Bool
  deriving DecidableEq, Repr

/-! ## Roster -/

/-- A peer record (R168). -/
structure Peer where
  uniqueId : Option (BitVec 64)
  lastHeard : Option Time
  state : Option StationState
  account : Option AccountState
  beacon : Option BeaconFields
  live : Bool
  silence : Option Timer
  excluded : Bool
  deriving DecidableEq, Repr

/-- The unique id as read at LOADING and whether its check was good (R167, R202). -/
structure IdentityRead where
  uniqueId : BitVec 64
  checkGood : Bool
  deriving DecidableEq, Repr

/-- The Roster (R7, R165 to R177, R205). `config` is the configuration in force, absent when none is. -/
structure Roster where
  state : StationState
  lastReset : ResetCause
  isolation : Option IsolationReason
  identity : Option IdentityRead
  config : Option ConfigRecord
  digest : BitVec 16
  ticketCounter : Nat
  peers : Vector Peer 8
  clashed : Bool
  beaconTimer : Option Timer
  joinWindow : Option Timer
  pendingConfig : Bool
  deriving DecidableEq, Repr

/-! ## Programs and the Sequencer -/

/-- A weighing's role (R93). -/
inductive Role where
  | dry | wet
  deriving DecidableEq, Repr

/-- The modes FAST, SYNC and SENSE: a segment's mode flags, or a resume mode mask (R93, R131). -/
structure Modes where
  fast : Bool
  sync : Bool
  sense : Bool
  deriving DecidableEq, Repr

/-- A segment's kind with its operands (R93). -/
inductive SegmentKind where
  | hoist (lead trail : Int) (speed : Nat)
  | dwell (time : Nat)
  | drain (time : Nat)
  | weigh (role : Role) (settle : Nat)
  | loop (count endIndex : Nat)
  | shift (span : Span)
  deriving DecidableEq, Repr

/-- A segment of a stored program (R93). -/
structure Segment where
  kind : SegmentKind
  last : Bool
  modes : Modes
  deriving DecidableEq, Repr

/-- The Sequencer's activity (R96). -/
inductive Activity where
  | idle | segment | stopped | lift | weighAfterLift
  deriving DecidableEq, Repr

/-- The step the active segment has reached (R96). `starting` and `complete` pass within one event; `moving` is a
HOIST's, `timing` a DWELL's, DRAIN's or WEIGH's whose timer has been started, `settling` a WEIGH's that waits for the
last MOVE to end (R104); the other four are a SHIFT's (R105, R106). -/
inductive Phase where
  | starting | complete | moving | timing | settling | waiting | negotiating | held | travelling
  deriving DecidableEq, Repr

/-- The segment timer (R96, R143). -/
inductive SegTimer where
  | stopped
  | running (t : Timer)
  | suspended (remaining : Nat)
  deriving DecidableEq, Repr

/-- An entry of the repeat stack (R96). -/
structure Loop where
  start : Nat
  endIndex : Nat
  remaining : Nat
  deriving DecidableEq, Repr

/-- Who asked for the lift move in progress (R112). -/
inductive LiftFor where
  | hold | endLift | cancel | host
  deriving DecidableEq, Repr

/-- The host lift (R203). -/
inductive HostLift where
  | none | lifting | done | ended
  deriving DecidableEq, Repr

/-- The Dip Sequencer (R96), with the host lift (R203). The repeat stack has its top first. -/
structure Sequencer where
  activity : Activity
  slot : Option Nat
  index : Option Nat
  phase : Option Phase
  timer : SegTimer
  arrivedLead : Bool
  arrivedTrail : Bool
  arrivedTravel : Bool
  loops : List Loop
  drainTotal : Nat
  liftFor : Option LiftFor
  hostLift : HostLift
  deriving DecidableEq, Repr

/-- The Program Store (R92): eight slots; an empty slot holds no segment. -/
structure ProgramStore where
  slots : Vector (List Segment) 8
  deriving DecidableEq, Repr

/-! ## Drives, clock and capture -/

/-- A command to a drive (R132, R207). -/
inductive DriveCommand where
  | move (target : Int) (speed : Nat)
  | stop
  deriving DecidableEq, Repr

/-- The status of a command in flight (R132). -/
inductive FlightStatus where
  | moving | stopping | timedOut
  deriving DecidableEq, Repr

/-- A command in flight (R132, R135). `isPresent`: it is a MOVE of the segment or the lift that the Sequencer is in, so
that its ARRIVED is that of a present MOVE (R96, R99, R142, R204, log 16). `reported`: the channel has reported since it
was sent (R142). -/
structure InFlight where
  target : Int
  speed : Nat
  start : Option Int
  sentAt : Time
  status : FlightStatus
  isPresent : Bool
  reported : Bool
  deriving DecidableEq, Repr

/-- A channel's latest report (R132, R141). -/
structure DriveReport where
  position : Int
  load : Nat
  moving : Bool
  time : Time
  deriving DecidableEq, Repr

/-- A channel of the Drive Port (R132). `waitingPresent`: a MOVE that waits is one of the segment or the lift that the
Sequencer is in (log 16). -/
structure ChannelState where
  waiting : Option DriveCommand
  inFlight : Option InFlight
  timer : Option Timer
  report : Option DriveReport
  ready : Bool
  faultCode : Option Byte
  waitingPresent : Bool
  deriving DecidableEq, Repr

/-- The Drive Port (R132, R134). `busy`: a command is being sent on the drive link. -/
structure DrivePort where
  lead : ChannelState
  trail : ChannelState
  travel : ChannelState
  turn : Channel
  busy : Bool
  errors : Nat
  deriving DecidableEq, Repr

/-- The capture of one hook, with its contact line's filtered level (R144, R145). -/
structure Capture where
  on : Bool
  armed : Bool
  entry : Option Time
  exit : Option Time
  deriving DecidableEq, Repr

/-- Timebase and Capture (R143 to R145). -/
structure Timebase where
  clock : Time
  lead : Capture
  trail : Capture
  deriving DecidableEq, Repr

/-! ## Holds -/

/-- The six hold classes (R114). -/
inductive HoldClass where
  | stop | drive | program | conflict | bath | pause
  deriving DecidableEq, Repr

/-- The four program faults (R109). -/
inductive ProgramFault where
  | drainWet | repeatOverflow | shiftWet | offSpan
  deriving DecidableEq, Repr

/-- The cause of a pending class or of a hold entry (R113, R212). -/
inductive HoldCause where
  | stopInput
  | lineBreak
  | allStop
  | fault (channel : Channel) (code : Byte)
  | timeout (channel : Channel)
  | sync
  | program (f : ProgramFault)
  | recovery (origin : Rank) (number : BitVec 16)
  | balance (grams : Nat)
  | host
  deriving DecidableEq, Repr

/-- A class of the pending set with its first cause and its time (R113). -/
structure PendingHold where
  cls : HoldClass
  cause : HoldCause
  time : Time
  deriving DecidableEq, Repr

/-- The saved context of a hold entry (R113), with its void mark (R124). -/
structure SavedContext where
  activity : Activity
  index : Option Nat
  remaining : Option Nat
  loops : List Loop
  isVoid : Bool
  deriving DecidableEq, Repr

/-- An entry of the hold stack (R113). -/
structure HoldEntry where
  cls : HoldClass
  time : Time
  cause : HoldCause
  context : SavedContext
  deriving DecidableEq, Repr

/-- The Hold Controller (R113). The stack has its TOP first. -/
structure HoldController where
  pending : List PendingHold
  stack : List HoldEntry
  mask : Modes
  recorded : Nat
  deriving DecidableEq, Repr

/-! ## Records and the log -/

/-- The flags of a DIP record (R211). -/
structure DipFlags where
  estimated : Bool
  weighAnomaly : Bool
  excess : Bool
  endLift : Bool
  cancelRequested : Bool
  shifted : Bool
  drainWet : Bool
  repeatOverflow : Bool
  shiftWet : Bool
  offSpan : Bool
  abortedBath : Bool
  deriving DecidableEq, Repr

/-- A job's result (R84, R87). -/
inductive JobResult where
  | done | failed | abortedProgram | abortedBath | shiftTimeout | cancelled
  deriving DecidableEq, Repr

/-- A hold written into a DIP record (R122). -/
structure HoldNote where
  cls : HoldClass
  time : Time
  deriving DecidableEq, Repr

/-- A DIP record's body (R181). The fields of the close hold 0 and `none` while the record is FILLING. -/
structure DipRecord where
  dipId : Nat
  tag : BitVec 16
  slot : Nat
  span : Span
  ticket : Nat
  startTime : Time
  endTime : Time
  leadEntry : Option Time
  leadExit : Option Time
  trailEntry : Option Time
  trailExit : Option Time
  immersion : Option Nat
  drainTotal : Nat
  dry : Option Nat
  wet : Option Nat
  draw : Nat
  flags : DipFlags
  result : JobResult
  holds : List HoldNote
  deriving DecidableEq, Repr

/-- A record's body by kind (R181). -/
inductive RecordBody where
  | dip (d : DipRecord)
  | entry (seq : Nat) (kind : EntryKind) (amount : Int)
  | checkpoint (balance : Nat) (applied : Vector Nat 8) (ownNext ticketCounter : Nat)
  deriving DecidableEq, Repr

/-- A record (R181). Its check is the CRC-16 of its page (R211). -/
structure Record where
  seq : Nat
  time : Time
  body : RecordBody
  deriving DecidableEq, Repr

/-- What a page that is not EMPTY reads as (R178, R211). -/
inductive PageContent where
  | record (r : Record)
  | invalid
  deriving DecidableEq, Repr

/-- An area of the array that is written whole: the identity (8 bytes), the configuration record (48 bytes) or the lock
table (8 bytes), each with its 16-bit check (R179, R208, R210). -/
structure StoredArea where
  bytes : List Byte
  check : BitVec 16
  deriving DecidableEq, Repr

/-- The nonvolatile array (R178, R179). `pages` lists the pages that are not EMPTY, page numbers strictly rising. -/
structure FlashArray where
  pages : List (Nat × PageContent)
  identity : StoredArea
  config : StoredArea
  locks : StoredArea
  deriving DecidableEq, Repr

/-- The log state (R180). -/
inductive LogState where
  | scanning | opened | full | fault
  deriving DecidableEq, Repr

/-- The array operation in flight (R178). -/
inductive ArrayOp where
  | none
  | program
  | erase (sect : Nat)
  | areaWrite
  deriving DecidableEq, Repr

/-- A record buffer (R182). -/
inductive Buffer where
  | free
  | filling (d : DipRecord)
  | ready (r : Record)
  | committing (r : Record)
  deriving DecidableEq, Repr

/-- The name of a record buffer (R180). -/
inductive BufferId where
  | a | b
  deriving DecidableEq, Repr

/-- What an area write writes (R191). -/
inductive AreaTarget where
  | lockTable (flags : BitVec 64)
  | config (bytes : List Byte)
  deriving DecidableEq, Repr

/-- An area write that waits or is in flight, with the writes that have failed (R191). -/
structure AreaWrite where
  target : AreaTarget
  failed : Nat
  deriving DecidableEq, Repr

/-- The blocked section and its erase-needed mark (R180). -/
structure Blocked where
  sect : Nat
  eraseNeeded : Bool
  deriving DecidableEq, Repr

/-- The Log Store (R180). Section `s` is locked when bit `s` of `locks` is set (R210). `lastReady` is the buffer whose
record was made READY last: it tells which of two READY records is the older when both bear the last record sequence
(R181, R184, log 44). -/
structure LogStore where
  state : LogState
  op : ArrayOp
  writePos : Option Nat
  eraseDue : Option Nat
  blocked : Option Blocked
  nextSeq : Nat
  failures : Nat
  bufA : Buffer
  bufB : Buffer
  lastReady : Option BufferId
  call : Option BufferId
  locks : BitVec 64
  areaWrite : Option AreaWrite
  deriving DecidableEq, Repr

/-! ## Jobs -/

/-- A job's state (R71). -/
inductive JobState where
  | queued | waitCells | waitBath | claiming | running | closing
  deriving DecidableEq, Repr

/-- Why a job was aborted (R70, R83). -/
inductive AbortReason where
  | program | bath
  deriving DecidableEq, Repr

/-- The number of a job's claim and whether it is HELD (R70). -/
structure JobClaim where
  number : BitVec 16
  held : Bool
  deriving DecidableEq, Repr

/-- A job (R70), with its DRY and WET weights (R82, R83) and whether its cancel lift was carried out (R84). -/
structure Job where
  tag : BitVec 16
  slot : Nat
  span : Span
  draw : Nat
  waitLimit : Nat
  state : JobState
  claim : Option JobClaim
  shiftClaim : Option JobClaim
  dipId : Option Nat
  abort : Option AbortReason
  cancelPending : Bool
  shiftTimedOut : Bool
  dry : Option Nat
  wet : Option Nat
  cancelLift : Bool
  deriving DecidableEq, Repr

/-- Why a job FAILED (R87). -/
inductive FailReason where
  | claimTimeout | position
  deriving DecidableEq, Repr

/-- The last result record (R87). -/
structure LastResult where
  tag : BitVec 16
  dipId : Option Nat
  result : JobResult
  reason : Option FailReason
  draw : Nat
  flags : Option DipFlags
  read : Bool
  deriving DecidableEq, Repr

/-- Job Control (R70, R77, R87, R91). The head is the first of `list`. `retestDue` says that this event has brought a
report of the Claim Unit or a change of the account, after which a waiting job is tested again (R5, R31, R32, R76); it
is the model's own, and clear between events (log 45). -/
structure JobControl where
  list : List Job
  claimWait : Option Timer
  nextDipId : Nat
  lastResult : Option LastResult
  retestDue : Bool
  deriving DecidableEq, Repr

/-! ## Controller port -/

/-- The nine attention flags (R199). -/
inductive Flag where
  | jobEnd | resultLost | holdChange | stalePresent | logFull | logFault | accountEvent | linkError | peerChange
  deriving DecidableEq, Repr

/-- A set of attention flags (R195). -/
structure FlagSet where
  jobEnd : Bool
  resultLost : Bool
  holdChange : Bool
  stalePresent : Bool
  logFull : Bool
  logFault : Bool
  accountEvent : Bool
  linkError : Bool
  peerChange : Bool
  deriving DecidableEq, Repr

/-- The answer statuses (R197). -/
inductive Status where
  | ok | busy | invalid | refused | isProtected | notActive
  deriving DecidableEq, Repr

/-- The reasons of a REFUSED answer (R212). -/
inductive RefusedReason where
  | outOfReach | noProgram | duplicateTag | unknownTag | noHold | lifting | stopAsserted | driveNotReady
  | holdStanding | writeFailed | noConfig
  deriving DecidableEq, Repr

/-- The reasons a LOAD_PROGRAM fails validation (R95). -/
inductive LoadReason where
  | noLast | badKind | badMode | badOperand | badHeight | badLoop | loopCross | badSpan
  deriving DecidableEq, Repr

/-- PAUSE's dispositions (R120). -/
inductive Disposition where
  | entered | pending | absorbed
  deriving DecidableEq, Repr

/-- A record buffer's state as STATUS shows it (R182, R200). -/
inductive BufferState where
  | free | filling | ready | committing
  deriving DecidableEq, Repr

/-- What STATUS shows (R200), in the order of the rule. -/
structure StatusView where
  state : StationState
  isolation : Option IsolationReason
  lastReset : ResetCause
  ownRank : Option Rank
  clashed : Bool
  clock : Time
  flags : FlagSet
  peers : Vector Peer 8
  stack : List HoldEntry
  pending : List PendingHold
  mask : Modes
  recorded : Nat
  lead : ChannelState
  trail : ChannelState
  travel : ChannelState
  driveErrors : Nat
  contactLead : Bool
  contactTrail : Bool
  hostLift : HostLift
  account : AccountState
  balance : Nat
  committed : Nat
  headroom : Option Int
  head : Option (BitVec 16 × JobState)
  lastResult : Option LastResult
  logState : LogState
  writePos : Option Nat
  blocked : Option Blocked
  nextSeq : Nat
  failures : Nat
  bufA : BufferState
  bufB : BufferState
  framing : Nat
  check : Nat
  noise : Nat
  overrun : Nat
  postDrop : Nat
  lostArbitration : Nat
  queueLength : Nat
  inBreak : Bool
  ignored : Nat
  frameErrors : Nat
  deriving DecidableEq, Repr

/-- What READ_ACCOUNT shows (R202): the items of R30 with the retained list's length and ends, and the rest. -/
structure AccountView where
  balance : Nat
  committed : Nat
  floor : Option Nat
  applied : Vector Nat 8
  ownNext : Nat
  state : AccountState
  retainedLength : Nat
  retainedOldest : Option Nat
  retainedNewest : Option Nat
  holding : List Entry
  gaps : Vector (Option OpenGap) 8
  deferredDraw : Option DeferredDraw
  clampCount : Nat
  sinceCheckpoint : Nat
  headroom : Option Int
  rebaseNumber : BitVec 16
  fetchTarget : Option Rank
  fetchTimer : Option Timer
  checkpointPending : Bool
  deriving DecidableEq, Repr

/-- What READ_IDENTITY shows (R202). -/
structure IdentityView where
  identity : Option IdentityRead
  ownRank : Option Rank
  reach : Option Span
  digest : Option (BitVec 16)
  config : Option ConfigRecord
  pendingConfig : Bool
  deriving DecidableEq, Repr

/-- What READ_LOG gives for one page; `none` is EMPTY (R192). -/
structure PageView where
  page : Nat
  content : Option PageContent
  deriving DecidableEq, Repr

/-- A job as READ_JOB_LIST shows it, with the two fields of R70 that State keeps elsewhere: the clock time at which the
claim wait timer runs out, and the record buffer set aside. -/
structure JobView where
  job : Job
  deadline : Option Time
  call : Option BufferId
  deriving DecidableEq, Repr

/-- The payload of an answer (R197 and the rule of each request). -/
inductive AnswerPayload where
  | empty
  | reason (r : RefusedReason)
  | stationState (s : StationState)
  | segmentFailure (index : Nat) (r : LoadReason)
  | fieldFailure (byte : Nat)
  | status (v : StatusView)
  | acknowledged (cleared still : FlagSet)
  | account (v : AccountView)
  | table (entries : List ClaimEntry) (ticketCounter : Nat) (ownCounter : BitVec 16)
  | jobs (list : List JobView) (waitRemaining : Option Nat) (lastResult : Option LastResult)
  | identity (v : IdentityView)
  | place (n : Nat)
  | program (segments : List Segment)
  | count (n : Nat)
  | originated (seq balance : Nat)
  | checkpointMark (placed : Bool)
  | disposition (d : Disposition)
  | resumed (removed : HoldClass) (top : Option HoldClass)
  | log (pages : List PageView) (locks : BitVec 64) (writePos : Option Nat) (state : LogState)
  deriving DecidableEq, Repr

/-- An answer (R197). -/
structure Answer where
  code : Byte
  status : Status
  payload : AnswerPayload
  deriving DecidableEq, Repr

/-- The port states (R195). -/
inductive PortState where
  | idle | receiving | working | answering
  deriving DecidableEq, Repr

/-- The Controller Port (R195), with the answer it is sending. -/
structure ControllerPort where
  state : PortState
  request : Option Instr
  answer : Option Answer
  flags : FlagSet
  snapshot : FlagSet
  ignored : Nat
  frameErrors : Nat
  deriving DecidableEq, Repr

/-- The levels of the STOP and PROTECT inputs, asserted or released (R116, R191). -/
structure Pins where
  stop : Bool
  protect : Bool
  deriving DecidableEq, Repr

/-! ## The station -/

/-- The whole state. `draws` numbers the free values drawn, and `pending` is the queue of waiting commands, first in
first out; both are the model's own. -/
structure State where
  pins : Pins
  roster : Roster
  claims : ClaimUnit
  account : Account
  jobs : JobControl
  programs : ProgramStore
  seq : Sequencer
  drive : DrivePort
  time : Timebase
  holds : HoldController
  log : LogStore
  flash : FlashArray
  link : Link
  port : ControllerPort
  draws : Nat
  pending : List Instr
  deriving DecidableEq, Repr

/-- The faults of the model: none. Nothing the manual describes stops the station, so the type is empty and no
meaning can answer with a fault. -/
inductive Fault where
  deriving DecidableEq, Repr

/-- The refusals of the model. -/
inductive Refusal where
  /-- Raised by a dispatch arm of a command that has no meaning yet; safe. Every command has its meaning, so none
  raises it. -/
  | notModelled (mnemonic : String)
  deriving DecidableEq, Repr

/-- A step's outcome. -/
abbrev Result := Host.Outcome State Fault Refusal

/-! ## Reset values -/

/-- No attention flag (R195). -/
def FlagSet.none : FlagSet := ⟨false, false, false, false, false, false, false, false, false⟩

/-- No mode (R113). -/
def Modes.none : Modes := ⟨false, false, false⟩

/-- A peer record in its reset state (R168). -/
def Peer.reset : Peer := ⟨.none, .none, .none, .none, .none, false, .none, false⟩

/-- A channel of the Drive Port after reset (R132). -/
def ChannelState.reset : ChannelState := ⟨none, none, none, none, false, none, false⟩

/-- A hook's capture after reset (R144, R145). -/
def Capture.reset : Capture := ⟨false, false, none, none⟩

/-- The Roster after reset (R7, R165, R168, R173, R174, R205; log 30 for what the manual does not give). -/
def Roster.reset (cause : ResetCause) : Roster where
  state := .offline
  lastReset := cause
  isolation := none
  identity := none
  config := none
  digest := 0
  ticketCounter := 0
  peers := Vector.replicate 8 Peer.reset
  clashed := false
  beaconTimer := none
  joinWindow := none
  pendingConfig := false

/-- The Claim Unit after reset (R4). -/
def ClaimUnit.reset : ClaimUnit := ⟨[], 0⟩

/-- The Account Unit after reset (R30, R45, R54, R59, R66). -/
def Account.reset : Account where
  balance := 0
  committed := 0
  applied := Vector.replicate 8 0
  ownNext := 1
  ownSpent := false
  state := .starting
  retained := []
  holding := []
  gaps := Vector.replicate 8 none
  deferredDraw := none
  clampCount := 0
  sinceCheckpoint := 0
  rebaseNumber := 0
  fetchTarget := none
  fetchTimer := none
  checkpointPending := false

/-- Job Control after reset (R70, R77, R87; log 30 for the next dip id). -/
def JobControl.reset : JobControl := ⟨[], none, 1, none, false⟩

/-- The Program Store after reset (R92). -/
def ProgramStore.reset : ProgramStore := ⟨Vector.replicate 8 []⟩

/-- The Dip Sequencer after reset (R96, R203). -/
def Sequencer.reset : Sequencer where
  activity := .idle
  slot := none
  index := none
  phase := none
  timer := .stopped
  arrivedLead := false
  arrivedTrail := false
  arrivedTravel := false
  loops := []
  drainTotal := 0
  liftFor := none
  hostLift := .none

/-- The Drive Port after reset (R132). -/
def DrivePort.reset : DrivePort where
  lead := .reset
  trail := .reset
  travel := .reset
  turn := .lead
  busy := false
  errors := 0

/-- Timebase and Capture after reset (R143 to R145). -/
def Timebase.reset : Timebase := ⟨0, .reset, .reset⟩

/-- The Hold Controller after reset (R113). -/
def HoldController.reset : HoldController := ⟨[], [], .none, 0⟩

/-- The Log Store after reset (R180, R182; log 30 for the next record sequence and the working lock table). -/
def LogStore.reset : LogStore where
  state := .scanning
  op := .none
  writePos := none
  eraseDue := none
  blocked := none
  nextSeq := 1
  failures := 0
  bufA := .free
  bufB := .free
  lastReady := none
  call := none
  locks := BitVec.allOnes 64
  areaWrite := none

/-- The Link Interface after reset (R148). -/
def Link.reset : Link where
  queue := []
  sending := .idle
  rxA := none
  rxB := none
  framing := 0
  check := 0
  noise := 0
  overrun := 0
  postDrop := 0
  lostArbitration := 0
  inBreak := false
  breakDrive := none
  lineIdle := false

/-- The Controller Port after reset (R195). -/
def ControllerPort.reset : ControllerPort := ⟨.idle, none, none, .none, .none, 0, 0⟩

/-- The array as the model first finds it: erased pages, and zeros in the areas, with their checks (R208, log 4). -/
def FlashArray.blank : FlashArray where
  pages := []
  identity := ⟨List.replicate 8 0, 0x313E#16⟩
  config := ⟨List.replicate 48 0, 0xDF9D#16⟩
  locks := ⟨List.replicate 8 0, 0x313E#16⟩

/-- The machine right after power-on: OFFLINE, every block's volatile state at its reset value (R166). -/
def State.reset : State where
  pins := ⟨false, false⟩
  roster := .reset .powerOn
  claims := .reset
  account := .reset
  jobs := .reset
  programs := .reset
  seq := .reset
  drive := .reset
  time := .reset
  holds := .reset
  log := .reset
  flash := .blank
  link := .reset
  port := .reset
  draws := 0
  pending := []

end Sys2Proof.Machine
end

