-- ==== Sys2Proof/Machine/Flags.lean ====
section
/-! DEFINITION. Sets of attention flags (R199, R201, R212) and the flags word of a DIP record (R211). -/

namespace Sys2Proof.Machine

/-- The set with one flag added: raising a flag already set changes nothing (R199). -/
def FlagSet.raise (f : Flag) (s : FlagSet) : FlagSet :=
  match f with
  | .jobEnd => { s with jobEnd := true }
  | .resultLost => { s with resultLost := true }
  | .holdChange => { s with holdChange := true }
  | .stalePresent => { s with stalePresent := true }
  | .logFull => { s with logFull := true }
  | .logFault => { s with logFault := true }
  | .accountEvent => { s with accountEvent := true }
  | .linkError => { s with linkError := true }
  | .peerChange => { s with peerChange := true }

/-- Is the flag in the set? -/
def FlagSet.has (s : FlagSet) : Flag → Bool
  | .jobEnd => s.jobEnd
  | .resultLost => s.resultLost
  | .holdChange => s.holdChange
  | .stalePresent => s.stalePresent
  | .logFull => s.logFull
  | .logFault => s.logFault
  | .accountEvent => s.accountEvent
  | .linkError => s.linkError
  | .peerChange => s.peerChange

/-- Flag by flag. -/
def FlagSet.zip (f : Bool → Bool → Bool) (s t : FlagSet) : FlagSet where
  jobEnd := f s.jobEnd t.jobEnd
  resultLost := f s.resultLost t.resultLost
  holdChange := f s.holdChange t.holdChange
  stalePresent := f s.stalePresent t.stalePresent
  logFull := f s.logFull t.logFull
  logFault := f s.logFault t.logFault
  accountEvent := f s.accountEvent t.accountEvent
  linkError := f s.linkError t.linkError
  peerChange := f s.peerChange t.peerChange

/-- The flags in both sets. -/
def FlagSet.inter (s t : FlagSet) : FlagSet := s.zip (· && ·) t

/-- The flags of the first set that are not in the second. -/
def FlagSet.without (s t : FlagSet) : FlagSet := s.zip (fun a b => a && !b) t

/-- The set is not empty. -/
def FlagSet.any (s : FlagSet) : Bool :=
  s.jobEnd || s.resultLost || s.holdChange || s.stalePresent || s.logFull || s.logFault || s.accountEvent ||
    s.linkError || s.peerChange

/-- The flags a mask names: bits 0 to 8; bits 9 to 15 name no flag (R201, R212). -/
def FlagSet.ofMask (m : BitVec 16) : FlagSet where
  jobEnd := m.getLsbD 0
  resultLost := m.getLsbD 1
  holdChange := m.getLsbD 2
  stalePresent := m.getLsbD 3
  logFull := m.getLsbD 4
  logFault := m.getLsbD 5
  accountEvent := m.getLsbD 6
  linkError := m.getLsbD 7
  peerChange := m.getLsbD 8

/-- The mask that names the flags of a set: bit 0 JOB_END to bit 8 PEER_CHANGE (R212). -/
def FlagSet.mask (s : FlagSet) : BitVec 16 :=
  BitVec.ofNat 16 (s.jobEnd.toNat + 2 * s.resultLost.toNat + 4 * s.holdChange.toNat + 8 * s.stalePresent.toNat +
    16 * s.logFull.toNat + 32 * s.logFault.toNat + 64 * s.accountEvent.toNat + 128 * s.linkError.toNat +
    256 * s.peerChange.toNat)

/-- No DIP record flag. -/
def DipFlags.none : DipFlags :=
  ⟨false, false, false, false, false, false, false, false, false, false, false⟩

/-- The flags with a program fault's name added (R110). -/
def DipFlags.addFault (f : ProgramFault) (d : DipFlags) : DipFlags :=
  match f with
  | .drainWet => { d with drainWet := true }
  | .repeatOverflow => { d with repeatOverflow := true }
  | .shiftWet => { d with shiftWet := true }
  | .offSpan => { d with offSpan := true }

/-- The flags word of a DIP record, bit 0 first (R211). -/
def DipFlags.word (d : DipFlags) : Nat :=
  d.estimated.toNat + 2 * d.weighAnomaly.toNat + 4 * d.excess.toNat + 8 * d.endLift.toNat +
    16 * d.cancelRequested.toNat + 32 * d.shifted.toNat + 64 * d.drainWet.toNat +
    128 * d.repeatOverflow.toNat + 256 * d.shiftWet.toNat + 512 * d.offSpan.toNat +
    1024 * d.abortedBath.toNat

end Sys2Proof.Machine
end

