-- ==== Sys2Proof/WellFormed.lean ====
section
/-! DEFINITION. Which commands the wires can carry: each operand within the bytes the formats chapter gives it
(R206, R207, R212). The meanings do not rest on it; statements that quantify over what can be sent may. -/

namespace Sys2Proof

/-- A signed number of four bytes (12, opening). -/
def fitsInt32 (n : Int) : Bool := decide (-2147483648 ≤ n) && decide (n ≤ 2147483647)

/-- A number of one byte. -/
def fitsByte (n : Nat) : Bool := decide (n ≤ 255)

/-- A number of two bytes. -/
def fitsWord16 (n : Nat) : Bool := decide (n ≤ max16)

/-- A number of four bytes. -/
def fitsWord32 (n : Nat) : Bool := decide (n ≤ max32)

/-- A segment is ten bytes (R212). -/
def RawSegment.wellFormed (r : RawSegment) : Bool := r.operands.length == 8

/-- The ranges of the operands, command by command. -/
def Instr.wellFormed : Instr → Bool
  | .frameEnd f => decide (f.chars.length ≤ 262)
  | .arrived _ t => fitsInt32 t
  | .report _ p l _ => fitsInt32 p && decide (l ≤ 2147483647)
  | .fault _ code => code != 0
  | .eraseEnd offs => offs.all (fun o => decide (o < 64)) && decide (offs.Pairwise (· < ·))
  | .submitJob _ slot first last draw limit =>
      fitsByte slot && fitsByte first && fitsByte last && fitsWord32 draw && fitsWord16 limit
  | .loadProgram slot segs =>
      fitsByte slot && fitsByte segs.length && segs.all RawSegment.wellFormed
  | .readProgram slot => fitsByte slot
  | .charge m => fitsWord32 m
  | .skim m => fitsWord32 m
  | .adjust m => fitsInt32 m
  | .vacate r => fitsByte r
  | .readLog p c => fitsWord16 p && fitsByte c
  | .lockSections a b => fitsByte a && fitsByte b
  | .unlockSections a b => fitsByte a && fitsByte b
  | .writeConfig bs => bs.length == 48
  | .powerOn | .resetAsserted | .resetReleased | .startUpScanEnd | .stopInputAsserted | .stopInputReleased
  | .protectInputChange _ | .contactEdge _ _ _ | .claimTaken | .verdictTaken | .releaseTaken | .vacateTaken
  | .entryTaken | .gapTaken | .goneTaken | .fetchTaken | .snapshotTaken | .beaconTaken | .joinTaken | .stateTaken
  | .idleGapExpiry | .lostArbitration | .frameSent | .lineBreakDetected | .lineBreakReleased | .breakDriveEnd
  | .answerWindowExpiry _ | .fetchTimerExpiry | .claimWaitExpiry | .dwellTimerExpiry | .drainTimerExpiry
  | .settleTimerExpiry | .driveSendEnd | .ready _ | .driveEventDiscarded | .moveTimerExpiry _
  | .stopAllowanceExpiry _ | .silenceTimerExpiry _ | .beaconTimerExpiry | .joinWindowExpiry | .commitEnd _
  | .areaWriteEnd _ | .requestPauseTimeout | .requestCheckFailed | .requestIgnored | .unknownRequest _
  | .answerSent | .status | .acknowledge _ | .readAccount | .readTable | .readJobList | .readIdentity
  | .cancelJob _ | .checkpoint | .pause | .resume | .allStop | .liftClear => true

end Sys2Proof
end

