-- ==== Sys2Proof/Machine/Formats.lean ====
section
/-! DEFINITION. The layouts of the formats chapter (R206 to R212): bytes, the CRC-16, kettle link frames, drive link
messages, the configuration record and the other areas, log pages and controller port requests. -/

namespace Sys2Proof.Machine

/-! ## Bytes, numbers and the check -/

/-- The `k` bytes of a number, the more significant first (12, opening). -/
def bytesOf : Nat → Nat → List Byte
  | 0, _ => []
  | k + 1, n => BitVec.ofNat 8 (n / 256 ^ k) :: bytesOf k n

/-- The number some bytes spell, the more significant first. -/
def natOf (bs : List Byte) : Nat := bs.foldl (fun n b => n * 256 + b.toNat) 0

/-- The number in the bytes from `start`, `len` of them. -/
def fieldAt (bs : List Byte) (start len : Nat) : Nat := natOf ((bs.drop start).take len)

/-- A two's complement number of `k` bytes (12, opening). -/
def signedOf (k n : Nat) : Int := if n < 256 ^ k / 2 then (n : Int) else (n : Int) - (256 ^ k : Nat)

/-- The two's complement of a number in `k` bytes. -/
def unsignedOf (k : Nat) (i : Int) : Nat := (i % ((256 ^ k : Nat) : Int)).toNat

/-- One shift of the CRC register (R208). -/
def crcShift (r : BitVec 16) : BitVec 16 := if r.msb then (r <<< 1) ^^^ 0x1021#16 else r <<< 1

/-- One byte into the CRC register (R208). -/
def crcByte (r : BitVec 16) (b : Byte) : BitVec 16 :=
  (List.range 8).foldl (fun q _ => crcShift q) (r ^^^ (b.setWidth 16 <<< 8))

/-- The CRC-16 of R208. -/
def crc16 (bs : List Byte) : BitVec 16 := bs.foldl crcByte 0xFFFF#16

/-- A check as it is sent: two bytes (R208). -/
def checkBytes (bs : List Byte) : List Byte := bytesOf 2 (crc16 bs).toNat

/-! ## Codes of enumerated fields (12, opening) -/

def ClaimKind.code : ClaimKind → Nat
  | .dip => 0
  | .shift => 1
  | .recovery => 2

def ClaimKind.ofCode : Nat → Option ClaimKind
  | 0 => some .dip
  | 1 => some .shift
  | 2 => some .recovery
  | _ => none

def Verdict.code : Verdict → Nat
  | .grant => 0
  | .defer => 1
  | .refuse => 2

def Verdict.ofCode : Nat → Option Verdict
  | 0 => some .grant
  | 1 => some .defer
  | 2 => some .refuse
  | _ => none

def EntryKind.code : EntryKind → Nat
  | .draw => 0
  | .charge => 1
  | .skim => 2
  | .adjust => 3

def EntryKind.ofCode : Nat → Option EntryKind
  | 0 => some .draw
  | 1 => some .charge
  | 2 => some .skim
  | 3 => some .adjust
  | _ => none

def StationState.code : StationState → Nat
  | .offline => 0
  | .loading => 1
  | .listening => 2
  | .active => 3
  | .isolated => 4

def StationState.ofCode : Nat → Option StationState
  | 0 => some .offline
  | 1 => some .loading
  | 2 => some .listening
  | 3 => some .active
  | 4 => some .isolated
  | _ => none

def AccountState.code : AccountState → Nat
  | .starting => 0
  | .synced => 1
  | .gapped => 2
  | .rebasing => 3

def AccountState.ofCode : Nat → Option AccountState
  | 0 => some .starting
  | 1 => some .synced
  | 2 => some .gapped
  | 3 => some .rebasing
  | _ => none

def HoldClass.code : HoldClass → Nat
  | .stop => 0
  | .drive => 1
  | .program => 2
  | .conflict => 3
  | .bath => 4
  | .pause => 5

/-- The DIP result codes and FAILED (R211, R212). -/
def JobResult.code : JobResult → Nat
  | .done => 0
  | .abortedProgram => 1
  | .abortedBath => 2
  | .shiftTimeout => 3
  | .cancelled => 4
  | .failed => 5

/-- A rank field (R156, third test). -/
def rankOfCode (n : Nat) : Option Rank := if h : n < 8 then some ⟨n, h⟩ else none

/-- A field that holds 0 or 1. -/
def bitOfCode : Nat → Option Bool
  | 0 => some false
  | 1 => some true
  | _ => none

/-! ## Kettle link frames (R149, R206) -/

/-- The twelve frame kinds (R149). -/
inductive FrameKind where
  | verdict | release | vacate | claim | entry | gap | gone | fetch | snapshot | beacon | join | state
  deriving DecidableEq, Repr

/-- A payload's kind. -/
def Payload.kind : Payload → FrameKind
  | .verdict .. => .verdict
  | .release .. => .release
  | .vacate .. => .vacate
  | .claim .. => .claim
  | .entry .. => .entry
  | .gap .. => .gap
  | .gone .. => .gone
  | .fetch .. => .fetch
  | .snapshot .. => .snapshot
  | .beacon .. => .beacon
  | .join .. => .join
  | .state .. => .state

/-- A kind's arbitration class and kind code (R149, R206). -/
def FrameKind.classCode : FrameKind → Nat × Nat
  | .verdict => (0, 0)
  | .release => (0, 1)
  | .vacate => (0, 2)
  | .claim => (1, 0)
  | .entry => (2, 0)
  | .gap => (2, 1)
  | .gone => (2, 2)
  | .fetch => (2, 3)
  | .snapshot => (2, 4)
  | .beacon => (3, 0)
  | .join => (3, 1)
  | .state => (3, 2)

/-- The kind a class and a kind code name, if the table of R206 gives the pair. -/
def FrameKind.ofClassCode (cls code : Nat) : Option FrameKind :=
  match cls, code with
  | 0, 0 => some .verdict
  | 0, 1 => some .release
  | 0, 2 => some .vacate
  | 1, 0 => some .claim
  | 2, 0 => some .entry
  | 2, 1 => some .gap
  | 2, 2 => some .gone
  | 2, 3 => some .fetch
  | 2, 4 => some .snapshot
  | 3, 0 => some .beacon
  | 3, 1 => some .join
  | 3, 2 => some .state
  | _, _ => none

/-- A claim as a CLAIM payload (R206): 13 bytes. -/
def ListedClaim.bytes (c : ListedClaim) : List Byte :=
  bytesOf 2 c.number.toNat ++ bytesOf 1 c.kind.code ++ bytesOf 4 c.ticket ++ bytesOf 1 c.span.first ++
    bytesOf 1 c.span.last ++ bytesOf 4 c.reservation

/-- The fields of an identity frame's opening (R206): 11 bytes. -/
def Identity.bytes (i : Identity) : List Byte :=
  bytesOf 8 i.uniqueId.toNat ++ bytesOf 2 i.digest.toNat ++ bytesOf 1 i.state.code

/-- An applied vector, ranks 0 to 7 (R206). -/
def vectorBytes (v : Vector Nat 8) : List Byte := v.toList.flatMap (bytesOf 4)

/-- Element `i` of a census, zero when unused (R206). -/
def censusSlot (c : List (BitVec 16)) (i : Nat) : Nat := (c.getD i 0).toNat

/-- A payload's bytes (R206). -/
def Payload.bytes : Payload → List Byte
  | .verdict n v bath => bytesOf 2 n.toNat ++ bytesOf 1 v.code ++ bytesOf 1 bath.toNat
  | .release n => bytesOf 2 n.toNat
  | .vacate r => bytesOf 1 r.val
  | .claim c => c.bytes
  | .entry seq kind amount time dipId =>
      bytesOf 4 seq ++ bytesOf 1 kind.code ++ bytesOf 4 (unsignedOf 4 amount) ++ bytesOf 4 time.toNat ++
        (match dipId with
          | some d => bytesOf 4 d
          | none => [])
  | .gap seq => bytesOf 4 seq
  | .gone seq => bytesOf 4 seq
  | .fetch n => bytesOf 2 n.toNat
  | .snapshot n balance applied => bytesOf 2 n.toNat ++ bytesOf 4 balance ++ vectorBytes applied
  | .beacon id f =>
      id.bytes ++ bytesOf 4 f.ticketCounter ++ bytesOf 1 f.census.length ++ bytesOf 2 (censusSlot f.census 0) ++
        bytesOf 2 (censusSlot f.census 1) ++ vectorBytes f.applied ++ bytesOf 4 f.ownSeq ++
        bytesOf 4 f.balance ++ bytesOf 1 f.account.code
  | .join id => id.bytes
  | .state id tickets account claims =>
      id.bytes ++ bytesOf 4 tickets ++ bytesOf 1 account.code ++ bytesOf 1 claims.length ++
        claims.flatMap ListedClaim.bytes

/-- Character 1 of a frame: class, origin rank, kind code (R206). -/
def arbitrationByte (k : FrameKind) (origin : Rank) : Byte :=
  BitVec.ofNat 8 (k.classCode.1 * 64 + origin.val * 8 + k.classCode.2)

/-- The destination character (R206). -/
def Dest.byte : Dest → Byte
  | .all => 0xFF#8
  | .rank r => BitVec.ofNat 8 r.val

/-- The characters a frame's check covers (R206): 1 to the last payload byte. -/
def Frame.checked (f : Frame) : List Byte :=
  arbitrationByte f.payload.kind f.origin :: f.dest.byte :: BitVec.ofNat 8 f.payload.bytes.length :: f.payload.bytes

/-- A frame's characters on the line (R206). -/
def Frame.chars (f : Frame) : List Byte := 0xAA#8 :: f.checked ++ checkBytes f.checked ++ [0x7E#8]

/-- The lengths a kind allows (R206, first test of R156), with what the payload itself decides of them. -/
def lengthAllowed (k : FrameKind) (p : List Byte) : Bool :=
  match k with
  | .verdict => p.length == 4
  | .release => p.length == 2
  | .vacate => p.length == 1
  | .claim => p.length == 13
  | .entry => if fieldAt p 4 1 == 0 then p.length == 17 else p.length == 13
  | .gap => p.length == 4
  | .gone => p.length == 4
  | .fetch => p.length == 2
  | .snapshot => p.length == 38
  | .beacon => p.length == 61
  | .join => p.length == 11
  | .state => decide (fieldAt p 16 1 ≤ 2) && p.length == 17 + 13 * fieldAt p 16 1

/-- An applied vector from its 32 bytes. -/
def readVector (p : List Byte) (start : Nat) : Vector Nat 8 :=
  Vector.ofFn fun i : Fin 8 => fieldAt p (start + 4 * i.val) 4

/-- A claim from a CLAIM payload; `none` when a field fails the third test of R156. -/
def readClaim (p : List Byte) : Option ListedClaim := do
  let kind ← ClaimKind.ofCode (fieldAt p 2 1)
  if fieldAt p 9 4 ≤ maxMass then
    some ⟨BitVec.ofNat 16 (fieldAt p 0 2), kind, fieldAt p 3 4, ⟨fieldAt p 7 1, fieldAt p 8 1⟩, fieldAt p 9 4⟩
  else none

/-- The opening of an identity frame. -/
def readIdentityFields (p : List Byte) : Option Identity := do
  let st ← StationState.ofCode (fieldAt p 10 1)
  some ⟨BitVec.ofNat 64 (fieldAt p 0 8), BitVec.ofNat 16 (fieldAt p 8 2), st⟩

/-- The `n` claims a STATE lists, from their bytes (R206). -/
def readClaims : Nat → List Byte → Option (List ListedClaim)
  | 0, _ => some []
  | n + 1, p => do
      let c ← readClaim (p.take 13)
      let cs ← readClaims n (p.drop 13)
      some (c :: cs)

/-- A payload from its bytes; `none` when a field fails the third test of R156. -/
def readPayload (k : FrameKind) (p : List Byte) : Option Payload :=
  match k with
  | .verdict => do
      let v ← Verdict.ofCode (fieldAt p 2 1)
      let bath ← bitOfCode (fieldAt p 3 1)
      some (.verdict (BitVec.ofNat 16 (fieldAt p 0 2)) v bath)
  | .release => some (.release (BitVec.ofNat 16 (fieldAt p 0 2)))
  | .vacate => do
      let r ← rankOfCode (fieldAt p 0 1)
      some (.vacate r)
  | .claim => (readClaim p).map .claim
  | .entry => do
      let kind ← EntryKind.ofCode (fieldAt p 4 1)
      let amount := signedOf 4 (fieldAt p 5 4)
      if amount.natAbs ≤ maxMass then
        some (.entry (fieldAt p 0 4) kind amount (BitVec.ofNat 32 (fieldAt p 9 4))
          (if kind = .draw then some (fieldAt p 13 4) else none))
      else none
  | .gap => some (.gap (fieldAt p 0 4))
  | .gone => some (.gone (fieldAt p 0 4))
  | .fetch => some (.fetch (BitVec.ofNat 16 (fieldAt p 0 2)))
  | .snapshot => some (.snapshot (BitVec.ofNat 16 (fieldAt p 0 2)) (fieldAt p 2 4) (readVector p 6))
  | .beacon => do
      let id ← readIdentityFields p
      let account ← AccountState.ofCode (fieldAt p 60 1)
      if fieldAt p 15 1 ≤ 2 then
        some (.beacon id
          { ticketCounter := fieldAt p 11 4
            census := [BitVec.ofNat 16 (fieldAt p 16 2), BitVec.ofNat 16 (fieldAt p 18 2)].take (fieldAt p 15 1)
            applied := readVector p 20
            ownSeq := fieldAt p 52 4
            balance := fieldAt p 56 4
            account := account })
      else none
  | .join => (readIdentityFields p).map .join
  | .state => do
      let id ← readIdentityFields p
      let account ← AccountState.ofCode (fieldAt p 15 1)
      let claims ← readClaims (fieldAt p 16 1) (p.drop 17)
      some (.state id (fieldAt p 11 4) account claims)

/-- The destination a character names (R206). -/
def Dest.ofByte (b : Byte) : Option Dest :=
  if b = 0xFF#8 then some .all else (rankOfCode b.toNat).map .rank

/-- What the tests of R156 make of a frame. -/
inductive FrameTest where
  | framing
  | check
  | good (f : Frame)
  deriving DecidableEq, Repr

/-- The second and third tests of R156, on a frame that passed the first. -/
def testContents (c1 c2 c3 : Byte) (k : FrameKind) (dest : Dest) (payload check : List Byte) : FrameTest :=
  if checkBytes (c1 :: c2 :: c3 :: payload) = check then
    match readPayload k payload with
    | some p => .good ⟨⟨c1.toNat / 8 % 8, by omega⟩, dest, p⟩
    | none => .framing
  else .check

/-- The three tests of R156 in their order. -/
def testFrame (w : WireFrame) : FrameTest :=
  match w.chars with
  | c0 :: c1 :: c2 :: c3 :: rest =>
      match FrameKind.ofClassCode (c1.toNat / 64) (c1.toNat % 8), Dest.ofByte c2 with
      | some k, some dest =>
          if w.stopBitsGood && c0 == 0xAA#8 && rest.length == c3.toNat + 3 &&
              rest.drop (c3.toNat + 2) == [0x7E#8] && lengthAllowed k (rest.take c3.toNat) then
            testContents c1 c2 c3 k dest (rest.take c3.toNat) ((rest.drop c3.toNat).take 2)
          else .framing
      | _, _ => .framing
  | _ => .framing

/-! ## Drive link messages (R207) -/

/-- A channel's byte (R207). -/
def channelCode : Channel → Nat
  | .lead => 0
  | .trail => 1
  | .travel => 2

/-- The channel a byte names (R207). -/
def channelOfCode : Nat → Option Channel
  | 0 => some .lead
  | 1 => some .trail
  | 2 => some .travel
  | _ => none

/-- A command as it is sent to the drive (R207). -/
def DriveCommand.message (ch : Channel) : DriveCommand → List Byte
  | .move t v =>
      let m := bytesOf 1 (channelCode ch) ++ [0x01#8] ++ bytesOf 4 (unsignedOf 4 t) ++ bytesOf 2 v
      m ++ checkBytes m
  | .stop =>
      let m := bytesOf 1 (channelCode ch) ++ [0x02#8]
      m ++ checkBytes m

/-- The event a message from the drive is; one with a bad check, channel or code is discarded (R140, R207). The manual
leaves four points open, and the model settles them (log 46): a message whose length is not its code's is discarded
with the rest; a FAULT whose code byte is 0 is taken, with code 0; a moving byte other than 0 is taken as moving; a REPORT
whose position or load lies outside the ranges of R141 is taken, and kept as sent. -/
def driveEvent (m : List Byte) : Instr :=
  let body := m.take (m.length - 2)
  if checkBytes body = m.drop (m.length - 2) then
    match channelOfCode (fieldAt body 0 1), fieldAt body 1 1, body.length with
    | some ch, 0x81, 6 => .arrived ch (signedOf 4 (fieldAt body 2 4))
    | some ch, 0x82, 11 =>
        .report ch (signedOf 4 (fieldAt body 2 4)) (fieldAt body 6 4) (fieldAt body 10 1 != 0)
    | some ch, 0x83, 3 => .fault ch (BitVec.ofNat 8 (fieldAt body 2 1))
    | some ch, 0x84, 2 => .ready ch
    | _, _, _ => .driveEventDiscarded
  else .driveEventDiscarded

/-! ## The configuration record and the digest (R209, R210) -/

/-- The number in the configuration bytes from `start`. -/
def cfgNat (bs : List Byte) (start len : Nat) : Nat := fieldAt bs start len

/-- The signed two-byte number in the configuration bytes from `start`. -/
def cfgInt (bs : List Byte) (start : Nat) : Int := signedOf 2 (fieldAt bs start 2)

/-- The geometry digest: the CRC-16 over bytes 1 to 34 (R209). -/
def geometryDigest (bs : List Byte) : BitVec 16 := crc16 ((bs.drop 1).take 34)

/-- Is the reach table's entry of rank `r` in its range? A present reach is a valid span (R210); an absent one holds
0 in all three bytes (R209). -/
def reachEntrySound (bs : List Byte) (r : Nat) : Bool :=
  let first := cfgNat bs (4 + 3 * r + 1) 1
  let last := cfgNat bs (4 + 3 * r + 2) 1
  match cfgNat bs (4 + 3 * r) 1 with
  | 0 => first == 0 && last == 0
  | 1 => decide (first ≤ last) && decide (last < cfgNat bs 1 1)
  | _ => false

/-- The range tests of R210, field by field: the first byte of each field, and whether the field is in its range. -/
def configRanges (bs : List Byte) : List (Nat × Bool) :=
  [(0, decide (cfgNat bs 0 1 ≤ 7)),
   (1, decide (4 ≤ cfgNat bs 1 1) && decide (cfgNat bs 1 1 ≤ 32)),
   (2, decide (200 ≤ cfgNat bs 2 2) && decide (cfgNat bs 2 2 ≤ 2000))] ++
  (List.range 8).map (fun r => (4 + 3 * r, reachEntrySound bs r)) ++
  [(28, decide (cfgNat bs 28 1 ≤ 3)),
   (29, decide (cfgNat bs 29 4 ≤ 4000000000)),
   (33, decide (300 ≤ cfgNat bs 33 2) && decide (cfgNat bs 33 2 ≤ 3000)),
   (35, decide (50 ≤ cfgNat bs 35 2) && decide (cfgNat bs 35 2 ≤ 1000)),
   (37, decide (-4000 ≤ cfgInt bs 37) && decide (cfgInt bs 37 ≤ 8000)),
   (39, decide (-4000 ≤ cfgInt bs 39) && decide (cfgInt bs 39 ≤ 8000)),
   (41, decide (10 ≤ cfgNat bs 41 2) && decide (cfgNat bs 41 2 ≤ 500)),
   (43, decide (10 ≤ cfgNat bs 43 2) && decide (cfgNat bs 43 2 ≤ 500)),
   (45, decide (10 ≤ cfgNat bs 45 2) && decide (cfgNat bs 45 2 ≤ 500)),
   (47, decide (1 ≤ cfgNat bs 47 1) && decide (cfgNat bs 47 1 ≤ 50)),
   (4 + 3 * cfgNat bs 0 1, cfgNat bs (4 + 3 * cfgNat bs 0 1) 1 == 1)]

/-- The tests between fields that WRITE_CONFIG adds (R205): the lower limit at or below the upper, the clear height
between them. -/
def configRelations (bs : List Byte) : List (Nat × Bool) :=
  [(39, decide (cfgInt bs 37 ≤ cfgInt bs 39)),
   (33, decide (cfgInt bs 37 ≤ (cfgNat bs 33 2 : Int)) && decide ((cfgNat bs 33 2 : Int) ≤ cfgInt bs 39))]

/-- The first failing test of a list. -/
def firstFailure (tests : List (Nat × Bool)) : Option Nat := (tests.find? (fun t => !t.2)).map (·.1)

/-- The first field WRITE_CONFIG finds failing, by its first byte (R205, log 20). -/
def configFailure (bs : List Byte) : Option Nat := firstFailure (configRanges bs ++ configRelations bs)

/-- A beacon period code's period in ms (R210). -/
def beaconPeriodOf : Nat → Nat
  | 0 => 100
  | 1 => 200
  | 2 => 400
  | _ => 800

/-- The configured values of a sound record (R210). -/
def configOf (bs : List Byte) : ConfigRecord where
  ownRank := ⟨cfgNat bs 0 1 % 8, by omega⟩
  cells := cfgNat bs 1 1
  cellLength := cfgNat bs 2 2
  reach := Vector.ofFn fun r : Fin 8 =>
    if cfgNat bs (4 + 3 * r.val) 1 = 1 then
      some ⟨cfgNat bs (4 + 3 * r.val + 1) 1, cfgNat bs (4 + 3 * r.val + 2) 1⟩
    else none
  beaconPeriod := beaconPeriodOf (cfgNat bs 28 1)
  floor := cfgNat bs 29 4
  clear := (cfgNat bs 33 2 : Int)
  answerWindow := cfgNat bs 35 2
  lowerLimit := cfgInt bs 37
  upperLimit := cfgInt bs 39
  slowSpeed := cfgNat bs 41 2
  liftSpeed := cfgNat bs 43 2
  travelSpeed := cfgNat bs 45 2
  syncTolerance := cfgNat bs 47 1

/-! ## The areas of the array (R179, R208, R210) -/

/-- An area as the Log Store writes it: its bytes, with the check it adds over them (R208, R210). -/
def StoredArea.of (bytes : List Byte) : StoredArea := ⟨bytes, crc16 bytes⟩

/-- The check stored in an area agrees with its bytes (R208). -/
def StoredArea.good (a : StoredArea) : Bool := crc16 a.bytes == a.check

/-- The 8 bytes of a lock table: section s is bit (s mod 8) of byte (s div 8), bit 0 the least significant (R210). -/
def lockBytes (flags : BitVec 64) : List Byte := (List.range 8).map fun i => (flags >>> (8 * i)).setWidth 8

/-- The 64 flags that the bytes of a lock table hold (R210). -/
def lockFlags (bs : List Byte) : BitVec 64 := bs.foldr (fun b flags => (flags <<< 8) ||| b.setWidth 64) 0

/-- The identity LOADING takes from its area: the unique id in 8 bytes, and whether its check is good (R167, R210). -/
def identityFrom (a : StoredArea) : IdentityRead := ⟨BitVec.ofNat 64 (natOf a.bytes), a.good⟩

/-- The configuration LOADING takes from its area: none when the check fails, a field lies outside its range, or the
own rank has no entry in the reach table (R167). -/
def configFrom (a : StoredArea) : Option ConfigRecord :=
  if a.good && (firstFailure (configRanges a.bytes)).isNone then some (configOf a.bytes) else none

/-- The lock table LOADING takes from its area: every section locked when its check fails (R179). -/
def locksFrom (a : StoredArea) : BitVec 64 := if a.good then lockFlags a.bytes else BitVec.allOnes 64

/-! ## Log pages (R211) -/

/-- An optional field that is absent holds 0 (12, opening). -/
def optNat (o : Option Nat) : Nat := o.getD 0

/-- An optional time that is absent holds 0. -/
def optTime (o : Option Time) : Nat := (o.getD 0).toNat

/-- The presence mask of a DIP record (R211). -/
def DipRecord.presence (d : DipRecord) : Nat :=
  d.leadEntry.isSome.toNat + 2 * d.leadExit.isSome.toNat + 4 * d.trailEntry.isSome.toNat +
    8 * d.trailExit.isSome.toNat + 16 * d.immersion.isSome.toNat + 32 * d.dry.isSome.toNat +
    64 * d.wet.isSome.toNat

/-- A hold entry in a DIP record (R211). -/
def HoldNote.bytes (h : HoldNote) : List Byte := bytesOf 1 h.cls.code ++ bytesOf 4 h.time.toNat

/-- The body of a DIP record (R211): 82 bytes. -/
def DipRecord.bytes (d : DipRecord) : List Byte :=
  bytesOf 4 d.dipId ++ bytesOf 2 d.tag.toNat ++ bytesOf 1 d.slot ++ bytesOf 1 d.span.first ++
    bytesOf 1 d.span.last ++ bytesOf 4 d.ticket ++ bytesOf 4 d.startTime.toNat ++ bytesOf 4 d.endTime.toNat ++
    bytesOf 4 (optTime d.leadEntry) ++ bytesOf 4 (optTime d.leadExit) ++ bytesOf 4 (optTime d.trailEntry) ++
    bytesOf 4 (optTime d.trailExit) ++ bytesOf 4 (optNat d.immersion) ++ bytesOf 4 d.drainTotal ++
    bytesOf 4 (optNat d.dry) ++ bytesOf 4 (optNat d.wet) ++ bytesOf 4 d.draw ++ bytesOf 2 d.flags.word ++
    bytesOf 1 d.result.code ++ bytesOf 1 d.presence ++ bytesOf 1 d.holds.length ++
    (d.holds.flatMap HoldNote.bytes ++ List.replicate 20 0#8).take 20

/-- A record's kind byte and body (R211). -/
def RecordBody.bytes : RecordBody → Byte × List Byte
  | .dip d => (0x01#8, d.bytes)
  | .entry seq kind amount => (0x02#8, bytesOf 4 seq ++ bytesOf 1 kind.code ++ bytesOf 4 (unsignedOf 4 amount))
  | .checkpoint balance applied ownNext ticket =>
      (0x03#8, bytesOf 4 balance ++ vectorBytes applied ++ bytesOf 4 ownNext ++ bytesOf 4 ticket)

/-- The 128 bytes of a record's page (R211). -/
def Record.page (r : Record) : List Byte :=
  let covered := ([r.body.bytes.1] ++ bytesOf 4 r.seq ++ bytesOf 4 r.time.toNat ++ r.body.bytes.2 ++
    List.replicate 117 0#8).take 126
  covered ++ checkBytes covered

/-- The conditions of a page (R178). -/
inductive PageCondition where
  | empty | record | invalid
  deriving DecidableEq, Repr

/-- How the Log Store reads the bytes of a page (R211). -/
def pageCondition (bs : List Byte) : PageCondition :=
  if bs.all (· == 0xFF#8) then .empty
  else if checkBytes (bs.take 126) = (bs.drop 126).take 2 ∧ bs.head? ∈ [some 0x01#8, some 0x02#8, some 0x03#8] then
    .record
  else .invalid

/-! ## Controller port requests (R212) -/

/-- The request code a request's answer echoes (R197, R212). Commands that are no request have none: 0. -/
def requestCode : Instr → Byte
  | .status => 0x01#8
  | .acknowledge _ => 0x02#8
  | .readAccount => 0x03#8
  | .readTable => 0x04#8
  | .readJobList => 0x05#8
  | .readIdentity => 0x06#8
  | .submitJob .. => 0x07#8
  | .cancelJob _ => 0x08#8
  | .loadProgram .. => 0x09#8
  | .readProgram _ => 0x0A#8
  | .charge _ => 0x0B#8
  | .skim _ => 0x0C#8
  | .adjust _ => 0x0D#8
  | .checkpoint => 0x0E#8
  | .pause => 0x0F#8
  | .resume => 0x10#8
  | .allStop => 0x11#8
  | .liftClear => 0x12#8
  | .vacate _ => 0x13#8
  | .readLog .. => 0x14#8
  | .lockSections .. => 0x15#8
  | .unlockSections .. => 0x16#8
  | .writeConfig _ => 0x17#8
  | .unknownRequest code => code
  | _ => 0#8

/-- The segments of a LOAD_PROGRAM payload: ten bytes each (R212). -/
def readSegments : Nat → List Byte → List RawSegment
  | 0, _ => []
  | n + 1, p => ⟨(p.getD 0 0), (p.getD 1 0), (p.drop 2).take 8⟩ :: readSegments n (p.drop 10)

/-- The bytes a code's fixed operands take, for the codes of R212; `none` for any other code. -/
def operandLength : Nat → Option Nat
  | 0x02 => some 2
  | 0x07 => some 11
  | 0x08 => some 2
  | 0x09 => some 2
  | 0x0A => some 1
  | 0x0B => some 4
  | 0x0C => some 4
  | 0x0D => some 4
  | 0x13 => some 1
  | 0x14 => some 3
  | 0x15 => some 2
  | 0x16 => some 2
  | 0x17 => some 48
  | 0x01 => some 0
  | 0x03 => some 0
  | 0x04 => some 0
  | 0x05 => some 0
  | 0x06 => some 0
  | 0x0E => some 0
  | 0x0F => some 0
  | 0x10 => some 0
  | 0x11 => some 0
  | 0x12 => some 0
  | _ => none

/-- The command of a request whose code is known and whose payload has the length the code calls for (R212). -/
def requestOf (code : Nat) (p : List Byte) : Instr :=
  match code with
  | 0x01 => .status
  | 0x02 => .acknowledge (BitVec.ofNat 16 (fieldAt p 0 2))
  | 0x03 => .readAccount
  | 0x04 => .readTable
  | 0x05 => .readJobList
  | 0x06 => .readIdentity
  | 0x07 => .submitJob (BitVec.ofNat 16 (fieldAt p 0 2)) (fieldAt p 2 1) (fieldAt p 3 1) (fieldAt p 4 1)
      (fieldAt p 5 4) (fieldAt p 9 2)
  | 0x08 => .cancelJob (BitVec.ofNat 16 (fieldAt p 0 2))
  | 0x09 => .loadProgram (fieldAt p 0 1) (readSegments (fieldAt p 1 1) (p.drop 2))
  | 0x0A => .readProgram (fieldAt p 0 1)
  | 0x0B => .charge (fieldAt p 0 4)
  | 0x0C => .skim (fieldAt p 0 4)
  | 0x0D => .adjust (signedOf 4 (fieldAt p 0 4))
  | 0x0E => .checkpoint
  | 0x0F => .pause
  | 0x10 => .resume
  | 0x11 => .allStop
  | 0x12 => .liftClear
  | 0x13 => .vacate (fieldAt p 0 1)
  | 0x14 => .readLog (fieldAt p 0 2) (fieldAt p 2 1)
  | 0x15 => .lockSections (fieldAt p 0 1) (fieldAt p 1 1)
  | 0x16 => .unlockSections (fieldAt p 0 1) (fieldAt p 1 1)
  | 0x17 => .writeConfig p
  | _ => .unknownRequest (BitVec.ofNat 8 code)

/-- The command that the bytes of a whole request are, from the start character to the check (R196, R212). A request of
length 0, which holds no code, and bytes that do not open with the start character are read as a failed check: the
model's choice, for which the manual gives no outcome (log 47). -/
def requestCommand (bs : List Byte) : Instr :=
  let len := fieldAt bs 1 2
  let covered := (bs.drop 1).take (len + 2)
  let payload := (bs.drop 4).take (len - 1)
  let code := fieldAt bs 3 1
  if bs.length = len + 5 ∧ bs.head? = some 0xA5#8 ∧ 1 ≤ len ∧ checkBytes covered = bs.drop (len + 3) then
    match operandLength code with
    | none => .unknownRequest (BitVec.ofNat 8 code)
    | some need =>
        if payload.length < need then .requestCheckFailed
        else if code = 0x09 then
          if payload.length = 2 + 10 * fieldAt payload 1 1 then requestOf code payload
          else .unknownRequest (BitVec.ofNat 8 code)
        else if payload.length = need then requestOf code payload
        else .unknownRequest (BitVec.ofNat 8 code)
  else .requestCheckFailed

end Sys2Proof.Machine
end

