-- ==== Sys2Proof/Machine/Answers.lean ====
section
/-! DEFINITION. The bytes of the controller port's answers (R197, R212): the codes of their fields, the payload of each,
and the framing. The port holds an answer as its fields; R212 gives their order (that of the rules that list them) and
their codes, and the model the rest: the width of a field that no other layout of the chapter gives, and a list's
count (log 23). -/

namespace Sys2Proof.Machine

/-! ## The codes of the fields of answers (R212) -/

/-- The answer statuses' codes. -/
def Status.code : Status → Nat
  | .ok => 0
  | .busy => 1
  | .invalid => 2
  | .refused => 3
  | .isProtected => 4
  | .notActive => 5

/-- The reason byte that opens a REFUSED answer's payload. -/
def RefusedReason.code : RefusedReason → Nat
  | .outOfReach => 1
  | .noProgram => 2
  | .duplicateTag => 3
  | .unknownTag => 4
  | .noHold => 5
  | .lifting => 6
  | .stopAsserted => 7
  | .driveNotReady => 8
  | .holdStanding => 9
  | .writeFailed => 10
  | .noConfig => 11

/-- The reason of a LOAD_PROGRAM that fails validation. -/
def LoadReason.code : LoadReason → Nat
  | .noLast => 1
  | .badKind => 2
  | .badMode => 3
  | .badOperand => 4
  | .badHeight => 5
  | .badLoop => 6
  | .loopCross => 7
  | .badSpan => 8

def JobState.code : JobState → Nat
  | .queued => 0
  | .waitCells => 1
  | .waitBath => 2
  | .claiming => 3
  | .running => 4
  | .closing => 5

/-- The failure reason of a last result. -/
def failReasonCode : Option FailReason → Nat
  | none => 0
  | some .claimTimeout => 1
  | some .position => 2

/-- A claim entry's state. -/
def ClaimState.code : ClaimState → Nat
  | .requesting _ _ _ => 0
  | .held => 1
  | .noted => 2
  | .deferred => 3
  | .granted => 4
  | .stale _ => 5

/-- A STALE entry's prior state, in the codes of the claim states. -/
def PriorState.code : PriorState → Nat
  | .noted => 2
  | .deferred => 3
  | .granted => 4

def Disposition.code : Disposition → Nat
  | .entered => 0
  | .pending => 1
  | .absorbed => 2

/-- The mark of a CHECKPOINT answer. -/
def checkpointMarkCode (placed : Bool) : Nat := if placed then 0 else 1

def isolationCode : Option IsolationReason → Nat
  | none => 0
  | some .identityInvalid => 1
  | some .configInvalid => 2
  | some .rankClash => 3
  | some .digestMismatch => 4

def ResetCause.code : ResetCause → Nat
  | .powerOn => 0
  | .resetInput => 1

def HostLift.code : HostLift → Nat
  | .none => 0
  | .lifting => 1
  | .done => 2
  | .ended => 3

def LogState.code : LogState → Nat
  | .scanning => 0
  | .opened => 1
  | .full => 2
  | .fault => 3

def BufferState.code : BufferState → Nat
  | .free => 0
  | .filling => 1
  | .ready => 2
  | .committing => 3

def Activity.code : Activity → Nat
  | .idle => 0
  | .segment => 1
  | .stopped => 2
  | .lift => 3
  | .weighAfterLift => 4

/-- A channel's waiting command. -/
def waitingCode : Option DriveCommand → Nat
  | none => 0
  | some (.move _ _) => 1
  | some .stop => 2

/-- A channel's command in flight, by its status. -/
def inFlightCode : Option FlightStatus → Nat
  | none => 0
  | some .moving => 1
  | some .stopping => 2
  | some .timedOut => 3

/-- The ready mark: NOT_READY 0, READY 1. -/
def readyCode (ready : Bool) : Nat := ready.toNat

/-- The break detector: QUIET 0, IN_BREAK 1. -/
def breakCode (inBreak : Bool) : Nat := inBreak.toNat

/-- The own-rank mark: CLEAR 0, CLASHED 1. -/
def clashCode (clashed : Bool) : Nat := clashed.toNat

/-- A peer's exclusion: none 0, DIGEST_MISMATCH 1. -/
def exclusionCode (excluded : Bool) : Nat := excluded.toNat

/-- A rank's mark in a grant set, for which R212 gives no code (log 23). -/
def GrantMark.code : GrantMark → Nat
  | .unanswered => 0
  | .deferred => 1

/-- The name of a record buffer, for which R212 gives no code (log 23). -/
def BufferId.code : BufferId → Nat
  | .a => 0
  | .b => 1

/-- A page's condition in a READ_LOG answer, for which R212 gives no code (log 23). -/
def PageCondition.code : PageCondition → Nat
  | .empty => 0
  | .record => 1
  | .invalid => 2

/-- The resume mode mask, as in a segment's flags byte. -/
def Modes.code (m : Modes) : Nat := 2 * m.fast.toNat + 4 * m.sync.toNat + 8 * m.sense.toNat

/-- A hold cause: a code byte and four operand bytes, the unused ones zero. -/
def HoldCause.bytes : HoldCause → List Byte
  | .stopInput => [0, 0, 0, 0, 0]
  | .lineBreak => [1, 0, 0, 0, 0]
  | .allStop => [2, 0, 0, 0, 0]
  | .fault ch code => [3, BitVec.ofNat 8 (channelCode ch), code, 0, 0]
  | .timeout ch => [4, BitVec.ofNat 8 (channelCode ch), 0, 0, 0]
  | .sync => [5, 0, 0, 0, 0]
  | .program .drainWet => [6, 0, 0, 0, 0]
  | .program .repeatOverflow => [7, 0, 0, 0, 0]
  | .program .shiftWet => [8, 0, 0, 0, 0]
  | .program .offSpan => [9, 0, 0, 0, 0]
  | .recovery origin number => [10, BitVec.ofNat 8 origin.val] ++ bytesOf 2 number.toNat ++ [0]
  | .balance grams => 11 :: bytesOf 4 grams
  | .host => [12, 0, 0, 0, 0]

/-- A segment's ten bytes, as a program is read back: kind, flags, and operands with the unused bytes zero. -/
def Segment.bytes (g : Segment) : List Byte :=
  let kind : Nat × List Byte := match g.kind with
    | .hoist lead trail speed => (0, bytesOf 2 (unsignedOf 2 lead) ++ bytesOf 2 (unsignedOf 2 trail) ++ bytesOf 2 speed)
    | .dwell time => (1, bytesOf 4 time)
    | .drain time => (2, bytesOf 4 time)
    | .weigh .dry settle => (3, 0 :: bytesOf 2 settle)
    | .weigh .wet settle => (3, 1 :: bytesOf 2 settle)
    | .loop count last => (4, bytesOf 1 count ++ bytesOf 1 last)
    | .shift sp => (5, bytesOf 1 sp.first ++ bytesOf 1 sp.last)
  (BitVec.ofNat 8 kind.1 :: BitVec.ofNat 8 (g.last.toNat + g.modes.code) :: kind.2 ++ List.replicate 8 0#8).take 10

/-! ## The parts of answer payloads -/

/-- An optional field: its presence mark, and its bytes or as many zeros (12, opening). -/
def optBytes {α : Type} (width : Nat) (f : α → List Byte) : Option α → List Byte
  | none => List.replicate (width + 1) 0#8
  | some a => 1#8 :: f a

/-- A list: how many, and each in turn. -/
def listBytes {α : Type} (f : α → List Byte) (l : List α) : List Byte := bytesOf 1 l.length ++ l.flatMap f

/-- A mark. -/
def markBytes (b : Bool) : List Byte := bytesOf 1 b.toNat

/-- A signed number in `k` bytes. -/
def signedBytes (k : Nat) (i : Int) : List Byte := bytesOf k (unsignedOf k i)

/-- A time (R143). -/
def timeBytes (t : Time) : List Byte := bytesOf 4 t.toNat

/-- A rank. -/
def rankBytes (r : Rank) : List Byte := bytesOf 1 r.val

/-- A span: first and last cell. -/
def Span.bytes (a : Span) : List Byte := bytesOf 1 a.first ++ bytesOf 1 a.last

/-- A timer: stopped, or running with its length (R59, R132). -/
def timerBytes (t : Option Timer) : List Byte := optBytes 4 (fun x : Timer => bytesOf 4 x.length) t

/-- A set of attention flags, as a mask. -/
def FlagSet.bytes (f : FlagSet) : List Byte := bytesOf 2 f.mask.toNat

/-- The fields of a peer's latest BEACON, in the order of R168. -/
def BeaconFields.bytes (f : BeaconFields) : List Byte :=
  vectorBytes f.applied ++ bytesOf 4 f.ownSeq ++ bytesOf 4 f.balance ++ bytesOf 1 f.account.code ++
    bytesOf 4 f.ticketCounter ++ bytesOf 1 f.census.length ++ bytesOf 2 (censusSlot f.census 0) ++
    bytesOf 2 (censusSlot f.census 1)

/-- A peer record, in the order of R168. -/
def Peer.bytes (p : Peer) : List Byte :=
  optBytes 8 (fun i : BitVec 64 => bytesOf 8 i.toNat) p.uniqueId ++ optBytes 4 timeBytes p.lastHeard ++
    optBytes 1 (fun x : StationState => bytesOf 1 x.code) p.state ++
    optBytes 1 (fun x : AccountState => bytesOf 1 x.code) p.account ++
    optBytes 50 BeaconFields.bytes p.beacon ++ markBytes p.live ++ markBytes p.silence.isSome ++
    bytesOf 1 (exclusionCode p.excluded)

/-- The live set: a mask of one byte, bit r for rank r (log 23). -/
def liveMask (peers : Vector Peer 8) : Nat := peers.toList.foldr (fun p n => 2 * n + p.live.toNat) 0

/-- The peer records: of each rank other than the own, by rising rank and without a count (R168, log 23). -/
def peersBytes (own : Option Rank) (peers : Vector Peer 8) : List Byte :=
  (([0, 1, 2, 3, 4, 5, 6, 7] : List Rank).filter fun r => own != some r).flatMap fun r => peers[r].bytes

/-- An entry of a repeat stack (R96). -/
def Loop.bytes (l : Loop) : List Byte := bytesOf 1 l.start ++ bytesOf 1 l.endIndex ++ bytesOf 1 l.remaining

/-- A saved context (R113), its repeat stack from bottom to top (log 23). -/
def SavedContext.bytes (c : SavedContext) : List Byte :=
  bytesOf 1 c.activity.code ++ optBytes 1 (bytesOf 1) c.index ++ optBytes 4 (bytesOf 4) c.remaining ++
    listBytes Loop.bytes c.loops.reverse ++ markBytes c.isVoid

/-- An entry of the hold stack (R113). -/
def HoldEntry.bytes (e : HoldEntry) : List Byte :=
  bytesOf 1 e.cls.code ++ timeBytes e.time ++ e.cause.bytes ++ e.context.bytes

/-- A class of the pending set (R113). -/
def PendingHold.bytes (p : PendingHold) : List Byte := bytesOf 1 p.cls.code ++ p.cause.bytes ++ timeBytes p.time

/-- A command in flight: its target, speed, start position, sent time and status (R132). -/
def InFlight.bytes (f : InFlight) : List Byte :=
  signedBytes 4 f.target ++ bytesOf 2 f.speed ++ optBytes 4 (signedBytes 4) f.start ++ timeBytes f.sentAt ++
    bytesOf 1 (inFlightCode (some f.status))

/-- A channel's latest report (R132). -/
def DriveReport.bytes (r : DriveReport) : List Byte :=
  signedBytes 4 r.position ++ bytesOf 4 r.load ++ markBytes r.moving ++ timeBytes r.time

/-- A waiting command: its code, with a MOVE's target and speed. -/
def waitingBytes (c : Option DriveCommand) : List Byte :=
  bytesOf 1 (waitingCode c) ++
    match c with
    | some (.move target speed) => signedBytes 4 target ++ bytesOf 2 speed
    | _ => List.replicate 6 0#8

/-- A command in flight, or zeros and the code none. -/
def inFlightBytes : Option InFlight → List Byte
  | some f => f.bytes
  | none => List.replicate 16 0#8

/-- A channel as STATUS shows it (R132, R200). -/
def ChannelState.bytes (c : ChannelState) : List Byte :=
  waitingBytes c.waiting ++ inFlightBytes c.inFlight ++ timerBytes c.timer ++
    optBytes 13 DriveReport.bytes c.report ++ bytesOf 1 (readyCode c.ready) ++ optBytes 1 (fun b : Byte => [b]) c.faultCode

/-- The last result record (R87). -/
def LastResult.bytes (r : LastResult) : List Byte :=
  bytesOf 2 r.tag.toNat ++ optBytes 4 (bytesOf 4) r.dipId ++ bytesOf 1 r.result.code ++
    bytesOf 1 (failReasonCode r.reason) ++ bytesOf 4 r.draw ++
    optBytes 2 (fun f : DipFlags => bytesOf 2 f.word) r.flags ++ markBytes r.read

/-- The last result record, or none. -/
def lastResultBytes (r : Option LastResult) : List Byte := optBytes 17 LastResult.bytes r

/-- What STATUS shows, in the order of R200; the hold stack from bottom to top (R113), the classes of the pending set in
the order in which they were latched (log 23). -/
def StatusView.bytes (v : StatusView) : List Byte :=
  bytesOf 1 v.state.code ++ bytesOf 1 (isolationCode v.isolation) ++ bytesOf 1 v.lastReset.code ++
    optBytes 1 rankBytes v.ownRank ++ bytesOf 1 (clashCode v.clashed) ++ timeBytes v.clock ++ v.flags.bytes ++
    bytesOf 1 (liveMask v.peers) ++ peersBytes v.ownRank v.peers ++
    listBytes HoldEntry.bytes v.stack.reverse ++ listBytes PendingHold.bytes v.pending ++ bytesOf 1 v.mask.code ++
    bytesOf 1 v.recorded ++
    v.lead.bytes ++ v.trail.bytes ++ v.travel.bytes ++ bytesOf 2 v.driveErrors ++ markBytes v.contactLead ++
    markBytes v.contactTrail ++ bytesOf 1 v.hostLift.code ++
    bytesOf 1 v.account.code ++ bytesOf 4 v.balance ++ bytesOf 4 v.committed ++ optBytes 8 (signedBytes 8) v.headroom ++
    optBytes 3 (fun h : BitVec 16 × JobState => bytesOf 2 h.1.toNat ++ bytesOf 1 h.2.code) v.head ++
    lastResultBytes v.lastResult ++
    bytesOf 1 v.logState.code ++ optBytes 2 (bytesOf 2) v.writePos ++
    optBytes 2 (fun b : Blocked => bytesOf 1 b.sect ++ markBytes b.eraseNeeded) v.blocked ++ bytesOf 4 v.nextSeq ++
    bytesOf 1 v.failures ++ bytesOf 1 v.bufA.code ++ bytesOf 1 v.bufB.code ++
    bytesOf 2 v.framing ++ bytesOf 2 v.check ++ bytesOf 2 v.noise ++ bytesOf 2 v.overrun ++ bytesOf 2 v.postDrop ++
    bytesOf 2 v.lostArbitration ++ bytesOf 1 v.queueLength ++ bytesOf 1 (breakCode v.inBreak) ++
    bytesOf 2 v.ignored ++ bytesOf 2 v.frameErrors

/-- An entry of the account (R34), with its origin. -/
def Entry.bytes (e : Entry) : List Byte :=
  rankBytes e.origin ++ bytesOf 4 e.seq ++ bytesOf 1 e.kind.code ++ signedBytes 4 e.amount ++ timeBytes e.time ++
    optBytes 4 (bytesOf 4) e.dipId

/-- A gap record (R45). -/
def OpenGap.bytes (g : OpenGap) : List Byte := bytesOf 4 g.target ++ timeBytes g.lastRequest

/-- The deferred draw (R36). -/
def DeferredDraw.bytes (d : DeferredDraw) : List Byte := bytesOf 4 d.draw ++ bytesOf 4 d.dipId

/-- What READ_ACCOUNT shows (R202): the items of R30 in their order, the committed amount and the gap records among them
and given once (log 23), and the rest. -/
def AccountView.bytes (v : AccountView) : List Byte :=
  bytesOf 4 v.balance ++ bytesOf 4 v.committed ++ optBytes 4 (bytesOf 4) v.floor ++ vectorBytes v.applied ++
    bytesOf 4 v.ownNext ++ bytesOf 1 v.state.code ++ bytesOf 1 v.retainedLength ++
    optBytes 4 (bytesOf 4) v.retainedOldest ++ optBytes 4 (bytesOf 4) v.retainedNewest ++
    listBytes Entry.bytes v.holding ++ v.gaps.toList.flatMap (optBytes 8 OpenGap.bytes) ++
    optBytes 8 DeferredDraw.bytes v.deferredDraw ++ bytesOf 2 v.clampCount ++ bytesOf 1 v.sinceCheckpoint ++
    optBytes 8 (signedBytes 8) v.headroom ++ bytesOf 2 v.rebaseNumber.toNat ++ optBytes 1 rankBytes v.fetchTarget ++
    timerBytes v.fetchTimer ++ markBytes v.checkpointPending

/-- A rank of a grant set, with its mark (R2). -/
def GrantSlot.bytes (g : GrantSlot) : List Byte := rankBytes g.rank ++ bytesOf 1 g.mark.code

/-- The grant set and the send count, which a REQUESTING entry alone has (R2); the ranks of the set in its stored order,
which is rising (log 23). -/
def ClaimState.grantBytes : ClaimState → List Byte
  | .requesting grants sendCount _ => listBytes GrantSlot.bytes grants ++ optBytes 2 (bytesOf 2) (some sendCount)
  | _ => listBytes GrantSlot.bytes [] ++ optBytes 2 (bytesOf 2) none

/-- The prior state, which a STALE entry alone has (R2). -/
def ClaimState.priorBytes : ClaimState → List Byte
  | .stale prior => optBytes 1 (bytesOf 1) (some prior.code)
  | _ => optBytes 1 (bytesOf 1) none

/-- An entry of the occupancy table, in the order of R2. -/
def ClaimEntry.bytes (e : ClaimEntry) : List Byte :=
  rankBytes e.origin ++ bytesOf 2 e.number.toNat ++ bytesOf 1 e.kind.code ++ bytesOf 4 e.ticket ++ e.span.bytes ++
    bytesOf 4 e.reservation ++ bytesOf 1 e.state.code ++ e.state.grantBytes ++
    optBytes 2 (fun t : BitVec 16 => bytesOf 2 t.toNat) e.jobTag ++ e.state.priorBytes

/-- A job's claim: its number, and its state in the codes of claim entries (R70). -/
def JobClaim.bytes (c : JobClaim) : List Byte := bytesOf 2 c.number.toNat ++ bytesOf 1 c.held.toNat

/-- An abort reason, in the codes of the hold classes (R70, log 23). -/
def AbortReason.code : AbortReason → Nat
  | .program => HoldClass.program.code
  | .bath => HoldClass.bath.code

/-- A job, in the order of R70. -/
def JobView.bytes (v : JobView) : List Byte :=
  let j := v.job
  bytesOf 2 j.tag.toNat ++ bytesOf 1 j.slot ++ j.span.bytes ++ bytesOf 4 j.draw ++ bytesOf 2 j.waitLimit ++
    bytesOf 1 j.state.code ++ optBytes 4 timeBytes v.deadline ++ optBytes 3 JobClaim.bytes j.claim ++
    optBytes 3 JobClaim.bytes j.shiftClaim ++ optBytes 1 (fun i : BufferId => bytesOf 1 i.code) v.call ++
    optBytes 4 (bytesOf 4) j.dipId ++ optBytes 1 (fun r : AbortReason => bytesOf 1 r.code) j.abort ++
    markBytes j.cancelPending ++ markBytes j.shiftTimedOut

/-- A rank's entry in the reach table (R210). -/
def reachBytes : Option Span → List Byte
  | none => [0, 0, 0]
  | some a => 1#8 :: a.bytes

/-- The code of a beacon period (R210). -/
def beaconPeriodCode (ms : Nat) : Nat := if ms = 100 then 0 else if ms = 200 then 1 else if ms = 400 then 2 else 3

/-- The configuration record in force, bytes 0 to 47 (R210). -/
def ConfigRecord.bytes (c : ConfigRecord) : List Byte :=
  rankBytes c.ownRank ++ bytesOf 1 c.cells ++ bytesOf 2 c.cellLength ++ c.reach.toList.flatMap reachBytes ++
    bytesOf 1 (beaconPeriodCode c.beaconPeriod) ++ bytesOf 4 c.floor ++ signedBytes 2 c.clear ++
    bytesOf 2 c.answerWindow ++ signedBytes 2 c.lowerLimit ++ signedBytes 2 c.upperLimit ++ bytesOf 2 c.slowSpeed ++
    bytesOf 2 c.liftSpeed ++ bytesOf 2 c.travelSpeed ++ bytesOf 1 c.syncTolerance

/-- What READ_IDENTITY shows (R202). -/
def IdentityView.bytes (v : IdentityView) : List Byte :=
  optBytes 9 (fun i : IdentityRead => bytesOf 8 i.uniqueId.toNat ++ markBytes i.checkGood) v.identity ++
    optBytes 1 rankBytes v.ownRank ++ optBytes 2 Span.bytes v.reach ++
    optBytes 2 (fun d : BitVec 16 => bytesOf 2 d.toNat) v.digest ++ optBytes 48 ConfigRecord.bytes v.config ++
    markBytes v.pendingConfig

/-- A page of a READ_LOG answer: its number, its condition, and a record's header, with its check, and body, as the page
lays them out (R181, R192, R211). -/
def PageView.bytes (v : PageView) : List Byte :=
  bytesOf 2 v.page ++
    match v.content with
    | none => bytesOf 1 PageCondition.empty.code
    | some .invalid => bytesOf 1 PageCondition.invalid.code
    | some (.record r) => bytesOf 1 PageCondition.record.code ++ r.page

/-! ## The payloads and the framing -/

/-- An answer's payload: the fields its request's rule lists, in that order (R197, R212). -/
def AnswerPayload.bytes : AnswerPayload → List Byte
  | .empty => []
  | .reason r => bytesOf 1 r.code
  | .stationState s => bytesOf 1 s.code
  | .segmentFailure index r => bytesOf 1 index ++ bytesOf 1 r.code
  | .fieldFailure byte => bytesOf 1 byte
  | .status v => v.bytes
  | .acknowledged cleared still => cleared.bytes ++ still.bytes
  | .account v => v.bytes
  | .table entries tickets own => listBytes ClaimEntry.bytes entries ++ bytesOf 4 tickets ++ bytesOf 2 own.toNat
  | .jobs list wait last => listBytes JobView.bytes list ++ optBytes 4 (bytesOf 4) wait ++ lastResultBytes last
  | .identity v => v.bytes
  | .place n => bytesOf 1 n
  | .program segments => listBytes Segment.bytes segments
  | .count n => bytesOf 1 n
  | .originated seq balance => bytesOf 4 seq ++ bytesOf 4 balance
  | .checkpointMark placed => bytesOf 1 (checkpointMarkCode placed)
  | .disposition d => bytesOf 1 d.code
  | .resumed removed top => bytesOf 1 removed.code ++ optBytes 1 (fun c : HoldClass => bytesOf 1 c.code) top
  | .log pages locks writePos state =>
      listBytes PageView.bytes pages ++ lockBytes locks ++ optBytes 2 (bytesOf 2) writePos ++ bytesOf 1 state.code

/-- An answer on the line: the start character, the length from the code to the payload's end, the code as received,
the status, the payload and the check over what lies between. -/
def answerBytes (code : Byte) (st : Status) (payload : List Byte) : List Byte :=
  let covered := bytesOf 2 (payload.length + 2) ++ code :: BitVec.ofNat 8 st.code :: payload
  0x5A#8 :: covered ++ checkBytes covered

/-- An answer on the line. -/
def Answer.bytes (a : Answer) : List Byte := answerBytes a.code a.status a.payload.bytes

end Sys2Proof.Machine
end

