-- ==== Sys2Proof/Config.lean ====
section
/-! DEFINITION. The free values: what the manual leaves open and the station nevertheless has. None has a body, so
no proof can rest on one. (The station's configuration is a record in its array: it is state, not configuration.) -/

namespace Sys2Proof

/-- R194: had the programming of the page begun when a reset abandoned it? If so it reads INVALID, else it stays
EMPTY. Drawn with `State.draws` (log 6). -/
opaque Config.pageWasBegun : Nat → Bool

/-- R194: does the page at this offset of a section whose erase a reset abandoned read INVALID (else EMPTY)?
Drawn with `State.draws` (log 6). -/
opaque Config.tornErasePageInvalid : Nat → Nat → Bool

/-- R191, R194: byte `i` of an area after a failed or torn write of it. Drawn with `State.draws` (logs 6, 7). -/
opaque Config.tornAreaByte : Nat → Nat → Byte

/-- R191, R194: the check that stands in that area; whether it agrees with the bytes follows from the two (logs 6,
7). -/
opaque Config.tornAreaCheck : Nat → BitVec 16

/-- R142: the progress of a hoist whose MOVE was sent before the channel had reported, so that it has no start
position, as a function of its target and its reported position; held at 100 where it is used (log 19). -/
opaque Config.progressWithoutStart : Int → Int → Nat

end Sys2Proof
end

