-- ==== Sys2Proof/Machine/Operands.lean ====
section
/-! DEFINITION. The operand forms of LOAD_PROGRAM: segments as sent, their validation (R93, R95, R212), and the
tests on spans and reaches (R1). -/

namespace Sys2Proof.Machine

/-! ## Spans and reaches (R1) -/

/-- Two spans overlap when they share a cell (00_scope). -/
def Span.overlaps (a b : Span) : Bool := decide (a.first ≤ b.last) && decide (b.first ≤ a.last)

/-- A span is valid when first ≤ last ≤ N−1 (R1). -/
def Span.valid (n : Nat) (a : Span) : Bool := decide (a.first ≤ a.last) && decide (a.last < n)

/-- A span lies within a reach when every cell of it is a cell of the reach (R1). -/
def Span.within (a reach : Span) : Bool := decide (reach.first ≤ a.first) && decide (a.last ≤ reach.last)

/-- The span holds the cell. -/
def Span.holds (a : Span) (cell : Nat) : Bool := decide (a.first ≤ cell) && decide (cell ≤ a.last)

/-- Does a rank's reach, if it has one, meet the span (R1)? -/
def reachMeets (reach : Option Span) (a : Span) : Bool :=
  match reach with
  | some r => r.overlaps a
  | none => false

/-- Does the span lie within a rank's reach, if it has one (R1)? -/
def withinReach (reach : Option Span) (a : Span) : Bool :=
  match reach with
  | some r => a.within r
  | none => false

/-! ## Segments as sent -/

/-- The number in the operand bytes of a segment, from byte 2 of the segment (R212). -/
def RawSegment.nat (r : Sys2Proof.RawSegment) (start len : Nat) : Nat := fieldAt r.operands start len

/-- The signed two-byte number in the operand bytes. -/
def RawSegment.int (r : Sys2Proof.RawSegment) (start : Nat) : Int := signedOf 2 (fieldAt r.operands start 2)

/-- Does the segment carry the last flag (R212)? -/
def rawLast (r : Sys2Proof.RawSegment) : Bool := r.flags.getLsbD 0

/-- The mode flags of the flags byte (R212). -/
def rawModes (r : Sys2Proof.RawSegment) : Modes := ⟨r.flags.getLsbD 1, r.flags.getLsbD 2, r.flags.getLsbD 3⟩

/-- The end index of a REPEAT, if the segment is one. -/
def rawLoopEnd (r : Sys2Proof.RawSegment) : Option Nat := if r.kind = 4#8 then some (RawSegment.nat r 1 1) else none

/-- BAD_OPERAND: a speed, time, settle time or count outside its range, or a role other than DRY or WET (R95). -/
def operandBad (r : Sys2Proof.RawSegment) : Bool :=
  match r.kind.toNat with
  | 0 => decide (RawSegment.nat r 4 2 < 10) || decide (500 < RawSegment.nat r 4 2)
  | 1 | 2 => decide (600000 < RawSegment.nat r 0 4)
  | 3 => decide (1 < RawSegment.nat r 0 1) || decide (RawSegment.nat r 1 2 < 200) ||
      decide (10000 < RawSegment.nat r 1 2)
  | 4 => RawSegment.nat r 0 1 == 0
  | _ => false

/-- BAD_MODE: a segment other than HOIST has a mode flag set (R95), or any flag bit above bit 3 is set (R212). -/
def modeBad (r : Sys2Proof.RawSegment) : Bool :=
  decide (15 < r.flags.toNat) || (r.kind != 0#8 && decide (1 < r.flags.toNat))

/-- BAD_HEIGHT: a HOIST target outside the configured height limits; with no configuration in force every HOIST
target is outside them (R95, log 21). -/
def heightBad (cfg : Option ConfigRecord) (r : Sys2Proof.RawSegment) : Bool :=
  r.kind == 0#8 &&
    match cfg with
    | some c =>
        !(decide (c.lowerLimit ≤ RawSegment.int r 0) && decide (RawSegment.int r 0 ≤ c.upperLimit) &&
          decide (c.lowerLimit ≤ RawSegment.int r 2) && decide (RawSegment.int r 2 ≤ c.upperLimit))
    | none => true

/-- BAD_LOOP: a REPEAT whose end index is not above its own index, or is above the last index (R95). -/
def loopBad (lastIndex index : Nat) (r : Sys2Proof.RawSegment) : Bool :=
  match rawLoopEnd r with
  | some e => decide (e ≤ index) || decide (lastIndex < e)
  | none => false

/-- LOOP_CROSS at `index`: an earlier REPEAT whose loop holds this REPEAT ends before it does (R95). -/
def loopCrosses (segs : List Sys2Proof.RawSegment) (index : Nat) (r : Sys2Proof.RawSegment) : Bool :=
  match rawLoopEnd r with
  | some e =>
      (segs.take index).any fun a =>
        match rawLoopEnd a with
        | some ea => decide (index ≤ ea) && decide (ea < e)
        | none => false
  | none => false

/-- BAD_SPAN: a SHIFT whose span is not valid, or does not lie within the station's reach (R95). -/
def spanBad (cfg : Option ConfigRecord) (r : Sys2Proof.RawSegment) : Bool :=
  r.kind == 5#8 &&
    match cfg with
    | some c =>
        let sp : Span := ⟨RawSegment.nat r 0 1, RawSegment.nat r 1 1⟩
        !(sp.valid c.cells && withinReach c.reach[c.ownRank] sp)
    | none => true

/-- The first reason a segment fails, in the order of R95's table. -/
def segmentFailure (cfg : Option ConfigRecord) (segs : List Sys2Proof.RawSegment) (lastIndex index : Nat)
    (r : Sys2Proof.RawSegment) : Option LoadReason :=
  if 5 < r.kind.toNat then some .badKind
  else if modeBad r then some .badMode
  else if operandBad r then some .badOperand
  else if heightBad cfg r then some .badHeight
  else if loopBad lastIndex index r then some .badLoop
  else if loopCrosses segs index r then some .loopCross
  else if spanBad cfg r then some .badSpan
  else none

/-- The index of the first segment with the last flag (R95). -/
def lastIndexOf (segs : List Sys2Proof.RawSegment) : Option Nat := segs.findIdx? rawLast

/-- The first failing segment among `rest`, whose first has index `index`. -/
def firstBadSegment (cfg : Option ConfigRecord) (segs : List Sys2Proof.RawSegment) (lastIndex : Nat) :
    Nat → List Sys2Proof.RawSegment → Option (Nat × LoadReason)
  | _, [] => none
  | index, r :: rest =>
      match segmentFailure cfg segs lastIndex index r with
      | some reason => some (index, reason)
      | none => firstBadSegment cfg segs lastIndex (index + 1) rest

/-- Validation (R95): the first failure found, with its index, or none. -/
def validate (cfg : Option ConfigRecord) (segs : List Sys2Proof.RawSegment) : Option (Nat × LoadReason) :=
  match lastIndexOf segs with
  | none => some (0, .noLast)
  | some li => firstBadSegment cfg segs li 0 (segs.take (li + 1))

/-- The kind of a segment that passed validation (R93, R212). -/
def rawKind (r : Sys2Proof.RawSegment) : SegmentKind :=
  match r.kind.toNat with
  | 0 => .hoist (RawSegment.int r 0) (RawSegment.int r 2) (RawSegment.nat r 4 2)
  | 1 => .dwell (RawSegment.nat r 0 4)
  | 2 => .drain (RawSegment.nat r 0 4)
  | 3 => .weigh (if RawSegment.nat r 0 1 = 0 then .dry else .wet) (RawSegment.nat r 1 2)
  | 4 => .loop (RawSegment.nat r 0 1) (RawSegment.nat r 1 1)
  | _ => .shift ⟨RawSegment.nat r 0 1, RawSegment.nat r 1 1⟩

/-- A segment that passed validation, as it is stored. -/
def storedSegment (r : Sys2Proof.RawSegment) : Segment := ⟨rawKind r, rawLast r, rawModes r⟩

/-- The segments a slot takes: up to and including the first with the last flag (R94). -/
def storedProgram (segs : List Sys2Proof.RawSegment) : List Segment :=
  match lastIndexOf segs with
  | some li => (segs.take (li + 1)).map storedSegment
  | none => []

end Sys2Proof.Machine
end

