-- ==== Sys2Proof/Machine/Ops.lean ====
section
/-! DEFINITION. The named operations over the state that the blocks share: reading the configuration in force, the
clock and its timers, raising a flag, the pages of the array, posting a frame, posting and sending a drive command,
changing the occupancy table, and the log's record buffers. -/

namespace Sys2Proof.Machine

/-! ## Configuration in force -/

/-- What the configured values read as while none is in force (R167): no reach, no cells. -/
def ConfigRecord.absent : ConfigRecord where
  ownRank := 0
  cells := 0
  cellLength := 0
  reach := Vector.replicate 8 none
  beaconPeriod := 0
  floor := 0
  clear := 0
  answerWindow := 0
  lowerLimit := 0
  upperLimit := 0
  slowSpeed := 0
  liftSpeed := 0
  travelSpeed := 0
  syncTolerance := 0

/-- The configured values. -/
def State.conf (s : State) : ConfigRecord := s.roster.config.getD .absent

/-- This station's rank. -/
def State.own (s : State) : Rank := s.conf.ownRank

/-- A rank's reach, if the reach table has an entry for it. -/
def State.reachOf (s : State) (r : Rank) : Option Span := s.conf.reach[r]

/-- This station's reach meets the span (R1). -/
def State.meets (s : State) (sp : Span) : Bool := reachMeets (s.reachOf s.own) sp

/-- The station works: it is not OFFLINE (R166). -/
def State.isOn (s : State) : Bool := s.roster.state != .offline

/-- The station takes frames and posts them: LISTENING or ACTIVE (R150). -/
def State.joined (s : State) : Bool := s.roster.state == .listening || s.roster.state == .active

/-- The account is SYNCED or GAPPED (R31). -/
def State.applying (s : State) : Bool := s.account.state == .synced || s.account.state == .gapped

/-! ## Clock, timers, counters, flags -/

/-- The station clock (R143). -/
def State.now (s : State) : Time := s.time.clock

/-- One more, staying at 65,535 (R30, R132, R160, R195). -/
def satInc (n : Nat) : Nat := if n < max16 then n + 1 else n

/-- One more, held at 4,294,967,295 (R7, R37, R181). -/
def heldInc (n : Nat) : Nat := if n < max32 then n + 1 else max32

/-- The time a timer has run, modulo 2^32 (R143). -/
def Timer.elapsed (t : Timer) (now : Time) : Nat := (now - t.start).toNat

/-- The time a timer still has to run. -/
def Timer.remaining (t : Timer) (now : Time) : Nat := t.length - t.elapsed now

/-- A timer expires when the clock, less its start time, reaches its length (R143). -/
def Timer.due (t : Timer) (now : Time) : Bool := decide (t.length ≤ t.elapsed now)

/-- A timer started now. -/
def State.timer (s : State) (length : Nat) : Timer := ⟨s.now, length⟩

/-- The clock set to a reading. -/
def State.setClock (c : Time) (s : State) : State := { s with time := { s.time with clock := c } }

/-- A timer's expiry says that the clock has reached its end (R143): a clock that has not is brought to it (log 2). -/
def State.reachExpiry (t : Timer) (s : State) : State :=
  if t.due s.now then s else s.setClock (t.start + BitVec.ofNat 32 t.length)

/-- A time `t` is later than a time `u` modulo 2^32 (R143). -/
def timeLater (t u : Time) : Bool := decide (1 ≤ (t - u).toNat) && decide ((t - u).toNat < 2147483648)

/-- Raising an attention flag (R199). -/
def State.raise (f : Flag) (s : State) : State := { s with port := { s.port with flags := s.port.flags.raise f } }

/-! ## The pages of the array (R178): a list of the pages that are not EMPTY, page numbers strictly rising -/

/-- The number of pages in a section and of sections in the array (R178). -/
def pagesPerSection : Nat := 64

/-- The number of sections (R178). -/
def sectionCount : Nat := 64

/-- The section that holds a page (10, opening). -/
def sectionOf (page : Nat) : Nat := page / pagesPerSection

/-- The first page of a section (10, opening). -/
def firstPage (sect : Nat) : Nat := sect * pagesPerSection

/-- The section after a section, 63 followed by 0 (R186). -/
def sectionAhead (sect : Nat) : Nat := (sect + 1) % sectionCount

/-- What a page reads as; `none` is EMPTY, what an unlisted page reads as (R178). -/
def readPage : List (Nat × PageContent) → Nat → Option PageContent
  | [], _ => none
  | (q, c) :: rest, p => if q = p then some c else readPage rest p

/-- The pages with one page's content put in its place. -/
def putPage (p : Nat) (c : PageContent) : List (Nat × PageContent) → List (Nat × PageContent)
  | [] => [(p, c)]
  | (q, d) :: rest =>
      if p < q then (p, c) :: (q, d) :: rest
      else if p = q then (p, c) :: rest
      else (q, d) :: putPage p c rest

/-- The pages with every page of a section EMPTY (R187). -/
def emptySection (sect : Nat) (pages : List (Nat × PageContent)) : List (Nat × PageContent) :=
  pages.filter fun q => sectionOf q.1 != sect

/-- The pages with the pages at these offsets of a section INVALID. -/
def putInvalid (sect : Nat) (offsets : List Nat) (pages : List (Nat × PageContent)) : List (Nat × PageContent) :=
  offsets.foldl (fun ps o => putPage (firstPage sect + o) .invalid ps) pages

/-- The canonical form: page numbers strictly rising, each of the array's 4096. (No entry can equal what an
unlisted page reads as.) -/
def pagesWf (pages : List (Nat × PageContent)) : Bool :=
  decide (pages.Pairwise fun a b => a.1 < b.1) && pages.all fun q => decide (q.1 < pagesPerSection * sectionCount)

/-- The first EMPTY page among `n` pages from `p` on. -/
def nextEmpty (pages : List (Nat × PageContent)) : Nat → Nat → Option Nat
  | 0, _ => none
  | n + 1, p => if (readPage pages p).isNone then some p else nextEmpty pages n (p + 1)

/-- The first EMPTY page after `p` in its section (R186). -/
def nextEmptyAfter (pages : List (Nat × PageContent)) (p : Nat) : Option Nat :=
  nextEmpty pages (pagesPerSection - 1 - p % pagesPerSection) (p + 1)

/-- Is the section locked in a lock table (R210)? -/
def sectionLocked (flags : BitVec 64) (sect : Nat) : Bool := flags.getLsbD sect

/-- The flags of the sections first to last. -/
def sectionMask (first last : Nat) : BitVec 64 :=
  (BitVec.allOnes 64 <<< first) &&& (BitVec.allOnes 64 >>> (63 - last))

/-- How many flags are set. -/
def flagCount (flags : BitVec 64) : Nat := ((List.range 64).filter fun i => flags.getLsbD i).length

/-! ## Posting frames (R150 to R152) -/

/-- The six error counters (R160). -/
inductive LinkCounter where
  | framing | check | noise | overrun | postDrop | lostArbitration
  deriving DecidableEq, Repr

/-- A counter of the Link Interface raised by one (R160). -/
def Link.count (c : LinkCounter) (l : Link) : Link :=
  match c with
  | .framing => { l with framing := satInc l.framing }
  | .check => { l with check := satInc l.check }
  | .noise => { l with noise := satInc l.noise }
  | .overrun => { l with overrun := satInc l.overrun }
  | .postDrop => { l with postDrop := satInc l.postDrop }
  | .lostArbitration => { l with lostArbitration := satInc l.lostArbitration }

/-- A count: the counter rises and LINK_ERROR is raised, also at 65,535 (R160). -/
def State.countLink (c : LinkCounter) (s : State) : State :=
  ({ s with link := s.link.count c } : State).raise .linkError

/-- The line is idle: the head frame, if any, begins to be sent (R152). -/
def Link.begin (l : Link) : Link :=
  if l.queue.isEmpty then { l with lineIdle := true } else { l with sending := .sending, lineIdle := false }

/-- A frame appended at the end of the posting queue (R151). -/
def State.enqueue (f : Frame) (s : State) : State := { s with link := { s.link with queue := s.link.queue ++ [f] } }

/-- Posting a frame (R151), as the station state allows (R150): appended, and begun when the queue was empty and the line
is idle (R152, log 9); dropped and counted when the queue holds 8; discarded without counting outside LISTENING and
ACTIVE. -/
def State.post (dest : Dest) (p : Payload) (s : State) : State :=
  if s.joined then
    if s.link.queue.length < 8 then
      let t := s.enqueue ⟨s.own, dest, p⟩
      if s.link.lineIdle && s.link.queue.isEmpty then { t with link := t.link.begin } else t
    else s.countLink .postDrop
  else s

/-! ## Drive commands (R133 to R135) -/

/-- A channel of the Drive Port. -/
def DrivePort.get (d : DrivePort) : Channel → ChannelState
  | .lead => d.lead
  | .trail => d.trail
  | .travel => d.travel

/-- The Drive Port with one channel changed. -/
def DrivePort.set (d : DrivePort) (ch : Channel) (c : ChannelState) : DrivePort :=
  match ch with
  | .lead => { d with lead := c }
  | .trail => { d with trail := c }
  | .travel => { d with travel := c }

/-- A channel of the station's Drive Port. -/
def State.channel (s : State) (ch : Channel) : ChannelState := s.drive.get ch

/-- The state with one channel changed. -/
def State.setChannel (ch : Channel) (c : ChannelState) (s : State) : State :=
  { s with drive := s.drive.set ch c }

/-- A command posted takes the place of the one waiting (R133). A MOVE posted is one of the segment or the lift that the
Sequencer is in (log 16). -/
def ChannelState.post (cmd : DriveCommand) (c : ChannelState) : ChannelState :=
  match cmd with
  | .stop => { c with waiting := some .stop }
  | .move t v => { c with waiting := some (.move t v), waitingPresent := true }

/-- The MOVEs of a channel are those of a segment or lift that is over (log 16). -/
def ChannelState.forget (c : ChannelState) : ChannelState :=
  { c with inFlight := c.inFlight.map fun f => { f with isPresent := false }, waitingPresent := false }

/-- The MOVEs of the three channels are those of a segment or lift that is over: none is present any more (R96, R99, R142,
R204, log 16). -/
def State.forgetMoves (s : State) : State :=
  { s with drive := { s.drive with
      lead := s.drive.lead.forget, trail := s.drive.trail.forget, travel := s.drive.travel.forget } }

/-- Posting a command on a channel (R133). -/
def State.postCommand (ch : Channel) (cmd : DriveCommand) (s : State) : State :=
  s.setChannel ch ((s.channel ch).post cmd)

/-- STOP posted on all three channels (R123, R132). -/
def State.postStops (s : State) : State :=
  ((s.postCommand .lead .stop).postCommand .trail .stop).postCommand .travel .stop

/-- A waiting MOVE. -/
def DriveCommand.isMove : DriveCommand → Bool
  | .move _ _ => true
  | .stop => false

/-- A MOVE is in flight on the channel: waiting, or sent and not ended (R132). -/
def ChannelState.moveInFlight (c : ChannelState) : Bool :=
  c.inFlight.isSome || c.waiting.any DriveCommand.isMove

/-- The whole range of a channel (R135). -/
def State.rangeOf (s : State) : Channel → Nat
  | .lead => 12000
  | .trail => 12000
  | .travel => s.conf.cells * s.conf.cellLength

/-- A move timer's length: distance × 1500 / speed, rounded up, + 2000 ms (R135). -/
def moveTime (distance speed : Nat) : Nat := (distance * 1500 + speed - 1) / speed + 2000

/-- The distance of a MOVE: from the latest report's position, or the whole range when there is none (R135). -/
def moveDistance (range : Nat) (start : Option Int) (target : Int) : Nat :=
  match start with
  | some p => (target - p).natAbs
  | none => range

/-- The stop allowance (R137). -/
def stopAllowance : Nat := 2000

/-- A command sent on its channel (R135 for a MOVE, R137 for a STOP). -/
def ChannelState.send (cmd : DriveCommand) (range : Nat) (now : Time) (c : ChannelState) : ChannelState :=
  match cmd with
  | .move target speed =>
      let start := c.report.map (·.position)
      { c with
        waiting := none
        inFlight := some ⟨target, speed, start, now, .moving, c.waitingPresent, false⟩
        timer := some ⟨now, moveTime (moveDistance range start target) speed⟩ }
  | .stop =>
      match c.inFlight with
      | some f =>
          { c with
            waiting := none
            inFlight := some { f with status := if f.status = .moving then .stopping else f.status }
            timer := some ⟨now, stopAllowance⟩ }
      | none => { c with waiting := none }

/-- The three channels in the order in which they are served after the turn pointer (R134). -/
def turnOrder : Channel → List Channel
  | .lead => [.trail, .travel, .lead]
  | .trail => [.travel, .lead, .trail]
  | .travel => [.lead, .trail, .travel]

/-- A waiting command sent: it leaves the waiting slot, and the turn pointer names its channel (R134). -/
def State.sendOn (ch : Channel) (cmd : DriveCommand) (s : State) : State :=
  let t := s.setChannel ch ((s.channel ch).send cmd (s.rangeOf ch) s.now)
  { t with drive := { t.drive with turn := ch, busy := true } }

/-- The first channel of a list that has a waiting command, with the command. -/
def State.firstWaiting (s : State) : List Channel → Option (Channel × DriveCommand)
  | [] => none
  | ch :: rest =>
      match (s.channel ch).waiting with
      | some cmd => some (ch, cmd)
      | none => s.firstWaiting rest

/-- When the link is free and a channel has a waiting command, the first after the turn pointer is sent (R134).
Applied when an event has posted all it posts (log 10). -/
def State.serveDrives (s : State) : State :=
  if s.drive.busy then s
  else
    match s.firstWaiting (turnOrder s.drive.turn) with
    | some (ch, cmd) => s.sendOn ch cmd
    | none => s

/-- A hook's height by its channel's latest report: is it at or above the clear height? An unreported hook is not. -/
def State.aboveClear (s : State) (ch : Channel) : Bool :=
  match (s.channel ch).report with
  | some r => decide (s.conf.clear ≤ r.position)
  | none => false

/-- Both hooks have reported and stand at or above the clear height. -/
def State.bothClear (s : State) : Bool := s.aboveClear .lead && s.aboveClear .trail

/-- The crane's current cell (R141): none without a travel report, or with a position outside the cells. -/
def State.currentCell (s : State) : Option Nat :=
  match (s.channel .travel).report with
  | some r =>
      if 0 ≤ r.position ∧ 0 < s.conf.cellLength ∧ r.position.toNat / s.conf.cellLength < s.conf.cells then
        some (r.position.toNat / s.conf.cellLength)
      else none
  | none => none

/-! ## The occupancy table and the committed amount -/

/-- The sum of the reservations of the entries of a table (R54). -/
def reservations (t : List ClaimEntry) : Nat := (t.map (·.reservation)).sum

/-- A STALE entry (R3). -/
def ClaimEntry.isStale (e : ClaimEntry) : Bool :=
  match e.state with
  | .stale _ => true
  | _ => false

/-- A REQUESTING entry (R3). -/
def ClaimEntry.isRequesting (e : ClaimEntry) : Bool :=
  match e.state with
  | .requesting _ _ _ => true
  | _ => false

/-- Two claim states are the same of the six (R3), whatever fields they hold. -/
def ClaimState.same : ClaimState → ClaimState → Bool
  | .requesting _ _ _, .requesting _ _ _ => true
  | .stale _, .stale _ => true
  | a, b => a == b

/-- Two tables hold the same claims in the same states: no entry added or removed and no change of state (R5). -/
def sameClaims : List ClaimEntry → List ClaimEntry → Bool
  | [], [] => true
  | e :: l, f :: m =>
      e.origin == f.origin && e.number == f.number && e.ticket == f.ticket && e.state.same f.state && sameClaims l m
  | _, _ => false

/-- The table changed. The committed amount follows it (R5, R54), STALE_PRESENT stands while it holds a STALE entry
(R26), and a change that R5 reports asks for a waiting job's test (R76). Every change of the table is made by this
operation. An event that R25, R27 or R28 ends with "the report of R5" and that changed no entry reports nothing: R5
reports changes, and the model follows it there (log 45). -/
def State.setTable (t : List ClaimEntry) (s : State) : State :=
  { s with
    claims := { s.claims with table := t }
    account := { s.account with committed := reservations t }
    jobs := { s.jobs with retestDue := s.jobs.retestDue || !sameClaims s.claims.table t }
    port := { s.port with flags := { s.port.flags with stalePresent := t.any ClaimEntry.isStale } } }

/-- The ticket counter rises to a larger value (R7). -/
def State.raiseTicket (v : Nat) (s : State) : State :=
  { s with roster := { s.roster with ticketCounter := max s.roster.ticketCounter v } }

/-! ## Peers, applied vector, gap table -/

/-- One peer record changed. -/
def State.setPeer (r : Rank) (p : Peer) (s : State) : State :=
  { s with roster := { s.roster with peers := s.roster.peers.set r p } }

/-- One element of the applied vector changed. -/
def State.setApplied (r : Rank) (seq : Nat) (s : State) : State :=
  { s with account := { s.account with applied := s.account.applied.set r seq } }

/-- One gap record changed. -/
def State.setGap (r : Rank) (g : Option OpenGap) (s : State) : State :=
  { s with account := { s.account with gaps := s.account.gaps.set r g } }

/-- Job Control is told that the account has changed: a waiting job is to be tested again (R31, R32, R76). -/
def State.tellAccountChange (s : State) : State := { s with jobs := { s.jobs with retestDue := true } }

/-- The account state changed, and Job Control told of it (R31). -/
def State.setAccountState (a : AccountState) (s : State) : State :=
  ({ s with account := { s.account with state := a } } : State).tellAccountChange

/-! ## Jobs -/

/-- The active job: the head, when it has left QUEUED (R71). -/
def State.activeJob (s : State) : Option Job :=
  match s.jobs.list with
  | j :: _ => if j.state = .queued then none else some j
  | [] => none

/-- The running job (R71). -/
def State.runningJob (s : State) : Option Job :=
  match s.jobs.list with
  | j :: _ => if j.state = .running then some j else none
  | [] => none

/-- The head job changed. -/
def State.updateHead (f : Job → Job) (s : State) : State :=
  match s.jobs.list with
  | j :: rest => { s with jobs := { s.jobs with list := f j :: rest } }
  | [] => s

/-- The claim wait timer set or stopped (R77). -/
def State.setClaimWait (t : Option Timer) (s : State) : State := { s with jobs := { s.jobs with claimWait := t } }

/-! ## Record buffers (R182) -/

/-- A buffer. -/
def LogStore.buffer (l : LogStore) : BufferId → Buffer
  | .a => l.bufA
  | .b => l.bufB

/-- The Log Store with one buffer changed. -/
def LogStore.setBuffer (i : BufferId) (x : Buffer) (l : LogStore) : LogStore :=
  match i with
  | .a => { l with bufA := x }
  | .b => { l with bufB := x }

/-- The state with one buffer changed. -/
def State.setBuffer (i : BufferId) (x : Buffer) (s : State) : State := { s with log := s.log.setBuffer i x }

/-- A buffer counts as FREE when it is FREE and no call stands on it (R182). -/
def LogStore.countsFree (l : LogStore) (i : BufferId) : Bool := l.buffer i == .free && l.call != some i

/-- The buffer a record is placed in: A when both count as FREE (R182, R183). -/
def LogStore.freeBuffer (l : LogStore) : Option BufferId :=
  if l.countsFree .a then some .a else if l.countsFree .b then some .b else none

/-- A record made READY in a buffer takes the next record sequence (R181). -/
def State.placeReady (i : BufferId) (body : RecordBody) (s : State) : State :=
  { s with
    log := { s.log.setBuffer i (.ready ⟨s.log.nextSeq, s.now, body⟩) with
      nextSeq := heldInc s.log.nextSeq, lastReady := some i } }

/-- The FILLING buffer and its record (R182: at most one). -/
def LogStore.fillingRecord (l : LogStore) : Option (BufferId × DipRecord) :=
  match l.bufA, l.bufB with
  | .filling d, _ => some (.a, d)
  | _, .filling d => some (.b, d)
  | _, _ => none

/-- The running job's DIP record changed in the FILLING buffer (R183). -/
def State.updateRecord (f : DipRecord → DipRecord) (s : State) : State :=
  match s.log.fillingRecord with
  | some (i, d) => s.setBuffer i (.filling (f d))
  | none => s

/-- The flags of the running job's DIP record changed. -/
def State.updateFlags (f : DipFlags → DipFlags) (s : State) : State :=
  s.updateRecord fun d => { d with flags := f d.flags }

end Sys2Proof.Machine
end

