-- ==== Sys2Proof/Machine/Holds.lean ====
section
/-! DEFINITION. The lift move and the segment timer as the holds use them (R111, R112), and the Hold Controller:
latching a cause, entering the hold stack, FREEZE and LIFT, the cancel lift (R89, R113 to R126). -/

namespace Sys2Proof.Machine

/-! ## The segment timer and the active segment -/

/-- What a segment timer still has to run; nothing when it is stopped (R143). -/
def SegTimer.left (t : SegTimer) (now : Time) : Option Nat :=
  match t with
  | .stopped => none
  | .running u => some (u.remaining now)
  | .suspended r => some r

/-- The Sequencer changed. -/
def State.setSeq (q : Sequencer) (s : State) : State := { s with seq := q }

/-- The phase of the active segment set. -/
def State.setPhase (p : Phase) (s : State) : State := s.setSeq { s.seq with phase := some p }

/-- The segment timer suspended (R123). -/
def State.suspendTimer (s : State) : State :=
  match s.seq.timer with
  | .running t => s.setSeq { s.seq with timer := .suspended (t.remaining s.now) }
  | _ => s

/-- A suspended segment timer runs on with what it has left (R143). -/
def State.resumeTimer (s : State) : State :=
  match s.seq.timer with
  | .suspended r => s.setSeq { s.seq with timer := .running (s.timer r) }
  | _ => s

/-- The program of a slot (R92). -/
def State.program (s : State) (slot : Nat) : List Segment := (s.programs.slots[slot]?).getD []

/-- The segment the Sequencer stands in. -/
def State.segment (s : State) : Option Segment :=
  match s.seq.slot, s.seq.index with
  | some slot, some i => (s.program slot)[i]?
  | _, _ => none

/-- The kind of the active segment: none unless the activity is SEGMENT. -/
def State.activeKind (s : State) : Option SegmentKind :=
  if s.seq.activity = .segment then s.segment.map (·.kind) else none

/-- The time an active DRAIN's timer has counted: the drain time less what is left (R103). -/
def State.drainCounted (s : State) : Nat :=
  match s.activeKind, s.seq.timer.left s.now with
  | some (.drain t), some r => t - r
  | _, _ => 0

/-- The counted time of an active DRAIN added to the drain total, held at 4,294,967,295 ms (R103). -/
def State.bankDrain (s : State) : State :=
  s.setSeq { s.seq with drainTotal := min (s.seq.drainTotal + s.drainCounted) max32 }

/-- The active segment abandoned: its timer stops, a DRAIN adds its counted time (R110, R112), and the claim wait
timer stops when it is a SHIFT that a lift abandons (R77). -/
def State.abandonForLift (s : State) : State :=
  let t := match s.activeKind with
    | some (.shift _) => s.setClaimWait none
    | _ => s
  let u := t.bankDrain
  u.setSeq { u.seq with timer := .stopped, phase := none }

/-! ## The lift move (R112) -/

/-- The lift's MOVE to the clear height at the lift speed, posted on a hoist. -/
def State.postLift (ch : Channel) (s : State) : State :=
  s.postCommand ch (.move s.conf.clear s.conf.liftSpeed)

/-- The lift's MOVEs posted to each hoist whose arrived mark is clear (R112). -/
def State.postLiftMoves (s : State) : State :=
  let t := if s.seq.arrivedLead then s else s.postLift .lead
  if s.seq.arrivedTrail then t else t.postLift .trail

/-- A STOP posted on the travel channel when a MOVE is in flight there (R112, R124). -/
def State.stopTravel (s : State) : State :=
  if (s.channel .travel).moveInFlight then s.postCommand .travel .stop else s

/-- The arrived marks cleared as a segment or a lift begins: no MOVE asked for before is present from here on (R96, R112,
R204, log 16). -/
def State.clearMarks (s : State) : State :=
  (s.setSeq { s.seq with arrivedLead := false, arrivedTrail := false, arrivedTravel := false }).forgetMoves

/-- A lift move begun: the active segment abandoned, the travel stopped, the marks cleared unless the lift takes the
place of one in progress, and the MOVEs posted (R112, R124). -/
def State.beginLift (who : LiftFor) (keepMarks : Bool) (s : State) : State :=
  let t := s.abandonForLift.stopTravel
  let u := if keepMarks then t else t.clearMarks
  (u.setSeq { u.seq with activity := .lift, liftFor := some who }).postLiftMoves

/-! ## Classes -/

/-- A class outranks another when its priority number is lower (R114). -/
def HoldClass.outranks (a b : HoldClass) : Bool := decide (a.code < b.code)

/-- The class's action is FREEZE (R114). -/
def HoldClass.isFreeze : HoldClass → Bool
  | .program => false
  | .bath => false
  | _ => true

/-- The class's resume mode mask names FAST (R114, R131). -/
def HoldClass.masksFast : HoldClass → Bool
  | .stop => true
  | .drive => true
  | .conflict => true
  | _ => false

/-- The abort reason a LIFT class gives (R83). -/
def HoldClass.abortReason : HoldClass → AbortReason
  | .bath => .bath
  | _ => .program

/-- The Hold Controller changed. -/
def State.setHolds (h : HoldController) (s : State) : State := { s with holds := h }

/-- The class stands on the hold stack. -/
def State.standing (s : State) (c : HoldClass) : Bool := s.holds.stack.any fun e => e.cls == c

/-- The class is in the pending set. -/
def State.isPending (s : State) (c : HoldClass) : Bool := s.holds.pending.any fun p => p.cls == c

/-- The top entry is of a FREEZE class (R123). -/
def State.frozen (s : State) : Bool :=
  match s.holds.stack with
  | e :: _ => e.cls.isFreeze
  | [] => false

/-- The hold stack and the pending set are both empty (R73, R80). -/
def State.noHolds (s : State) : Bool := s.holds.stack.isEmpty && s.holds.pending.isEmpty

/-! ## Entering (R121 to R124) -/

/-- The Sequencer's context as an entry saves it (R113). What a timer still has to run is saved also where a FREEZE
below has suspended it already: the model's choice, for the rule speaks of a timer that was running (log 49). -/
def State.context (s : State) : SavedContext :=
  if s.seq.activity = .segment then
    ⟨.segment, s.seq.index, s.seq.timer.left s.now, s.seq.loops, false⟩
  else ⟨s.seq.activity, none, none, [], false⟩

/-- FREEZE (R123): STOP posted on all channels, the segment timer suspended, a host lift ended (R130, R204). -/
def State.freeze (s : State) : State :=
  let t := s.postStops.suspendTimer
  if t.seq.hostLift = .lifting then
    t.setSeq { t.seq with hostLift := .ended, activity := .idle, liftFor := none }
  else t

/-- The running job's abort reason set, if it is not already (R83). -/
def State.setAbort (r : AbortReason) (s : State) : State :=
  s.updateHead fun j => { j with abort := some (j.abort.getD r) }

/-- The note that a cancel lift was taken over by a BATH lift (R90, R211). -/
def State.noteAbortedBath (c : HoldClass) (s : State) : State :=
  if c == .bath && s.runningJob.any (·.cancelLift) then s.updateFlags fun f => { f with abortedBath := true } else s

/-- The PROGRAM and BATH classes taken out of the pending set; HOLD_CHANGE if either was there (R124, R126). -/
def State.dropLiftPending (s : State) : State :=
  if s.holds.pending.any (fun p => !p.cls.isFreeze) then
    (s.setHolds { s.holds with pending := s.holds.pending.filter fun p => p.cls.isFreeze }).raise .holdChange
  else s

/-- The saved context of every entry marked void (R124). -/
def State.voidContexts (s : State) : State :=
  s.setHolds { s.holds with
    stack := s.holds.stack.map fun e => { e with context := { e.context with isVoid := true } } }

/-- A lift move begun for a LIFT hold; it takes the place of an end lift or a cancel lift, whose marks are kept
(R90, R124). -/
def State.beginHoldLift (s : State) : State := s.beginLift .hold (s.seq.activity == .lift)

/-- LIFT (R124). -/
def State.liftAction (c : HoldClass) (s : State) : State :=
  (((s.setAbort c.abortReason).noteAbortedBath c).dropLiftPending.voidContexts).beginHoldLift

/-- A class entering while a job is RUNNING is written into the DIP record, up to four (R122). -/
def State.recordHold (c : HoldClass) (s : State) : State :=
  if s.runningJob.isSome && decide (s.holds.recorded < 4) then
    let t := s.updateRecord fun d => { d with holds := d.holds ++ [⟨c, s.now⟩] }
    t.setHolds { t.holds with recorded := t.holds.recorded + 1 }
  else s

/-- The class out of the pending set and on the stack with its context (R121, steps 1 to 3). -/
def State.pushHold (p : PendingHold) (s : State) : State :=
  (s.setHolds { s.holds with
    pending := s.holds.pending.filter fun q => q.cls != p.cls
    stack := ⟨p.cls, s.now, p.cause, s.context⟩ :: s.holds.stack }).raise .holdChange

/-- Entering the hold stack (R121, R122). -/
def State.enterHold (p : PendingHold) (s : State) : State :=
  let t := (s.pushHold p).recordHold p.cls
  if p.cls.isFreeze then t.freeze else t.liftAction p.cls

/-- The pending class of highest priority. -/
def highestPending : List PendingHold → Option PendingHold
  | [] => none
  | p :: rest =>
      match highestPending rest with
      | some q => if q.cls.outranks p.cls then some q else some p
      | none => some p

/-- The entry test (R121): the highest pending class enters when the stack is empty or it outranks the top. -/
def State.enterPending (s : State) : State :=
  match highestPending s.holds.pending with
  | none => s
  | some p =>
      match s.holds.stack with
      | [] => s.enterHold p
      | e :: _ => if p.cls.outranks e.cls then s.enterHold p else s

/-! ## The cancel lift (R89, R90) -/

/-- The stack holds nothing but a PAUSE entry, or is empty (R89). -/
def State.onlyPause (s : State) : Bool :=
  match s.holds.stack with
  | [] => true
  | [e] => e.cls == .pause
  | _ => false

/-- A PAUSE entry on top discarded without resuming its context (R89, R126). -/
def State.discardPause (s : State) : State :=
  match s.holds.stack with
  | e :: rest =>
      if e.cls = .pause then (s.setHolds { s.holds with stack := rest }).raise .holdChange else s
  | [] => s

/-- The motion of a cancel lift already under way goes on: its MOVEs are issued again, or its weighing runs on
(R90, R129, log 17). -/
def State.continueCancel (s : State) : State :=
  match s.seq.activity with
  | .lift => s.postLiftMoves
  | .weighAfterLift => s.resumeTimer
  | _ => s

/-- The cancel carried out (R89): the PAUSE discarded, segment and repeat stack abandoned, the cancel lift issued. -/
def State.carryOutCancel (s : State) : State :=
  let t := s.discardPause
  if t.runningJob.any (·.cancelLift) then t.continueCancel
  else
    let u := (t.updateHead fun j => { j with cancelLift := true }).beginLift .cancel false
    u.setSeq { u.seq with loops := [] }

/-- A cancel-pending job is RUNNING, and the hold stack lets its cancel be carried out (R89). -/
def State.cancelReady (s : State) : Bool := s.runningJob.any (·.cancelPending) && s.onlyPause

/-- A PAUSE alone stands over an end lift: holds treat that lift as they treat the cancel lift (R83, R90). -/
def State.endLiftPaused (s : State) : Bool :=
  s.seq.activity == .lift && s.seq.liftFor == some .endLift && s.onlyPause && !s.holds.stack.isEmpty

/-- A PAUSE over an end lift discarded at once, and the lift issued again (R90). -/
def State.freeEndLift (s : State) : State := s.discardPause.postLiftMoves

/-- The tests of R89 and R90 after a change to the hold stack: a cancel carried out, or a PAUSE taken off an end
lift. -/
def State.testCancel (s : State) : State :=
  if s.cancelReady then s.carryOutCancel else if s.endLiftPaused then s.freeEndLift else s

/-! ## Latching (R115) -/

/-- A cause of this class is discarded (R115): PROGRAM and BATH without a running job, or with its abort reason
set. -/
def State.discardsCause (s : State) (c : HoldClass) : Bool :=
  !c.isFreeze &&
    match s.runningJob with
    | some j => j.abort.isSome
    | none => true

/-- A cause latched (R115): discarded, absorbed, already pending, or added to the pending set and tested for entry. -/
def State.latch (c : HoldClass) (cause : HoldCause) (s : State) : State :=
  if s.discardsCause c || s.standing c || s.isPending c then s
  else
    ((s.setHolds { s.holds with pending := s.holds.pending ++ [⟨c, cause, s.now⟩] }).raise
      .holdChange).enterPending.testCancel

/-- The resume mode mask with a removed class's mask added (R128, R131). -/
def Modes.addMask (c : HoldClass) (m : Modes) : Modes := { m with fast := m.fast || c.masksFast }

end Sys2Proof.Machine
end

