-- ==== Sys2Proof/Machine/Claims.lean ====
section
/-! DEFINITION. The Claim Unit's operations (01): the bath test it asks for (R55), issuing and ending claims, the
verdict rule, re-evaluation, collecting verdicts, stale claims, and entering the claims of a STATE. -/

namespace Sys2Proof.Machine

/-! ## Entries and tickets -/

/-- Ticket order: the lower value, then the lower origin rank (R6). -/
def ticketEarlier (v : Nat) (r : Rank) (w : Nat) (q : Rank) : Bool :=
  decide (v < w) || (decide (v = w) && decide (r < q))

/-- An entry's ticket is earlier than another's (R6). -/
def ClaimEntry.earlier (a b : ClaimEntry) : Bool := ticketEarlier a.ticket a.origin b.ticket b.origin

/-- The entry has this identity (R2). -/
def ClaimEntry.is (e : ClaimEntry) (origin : Rank) (number : BitVec 16) : Bool :=
  e.origin == origin && e.number == number

/-- The entry with an identity. -/
def State.entryOf (s : State) (origin : Rank) (number : BitVec 16) : Option ClaimEntry :=
  s.claims.table.find? fun e => e.is origin number

/-- An own entry (R2). -/
def State.isOwn (s : State) (e : ClaimEntry) : Bool := e.origin == s.own

/-- This station's own entries. -/
def State.ownEntries (s : State) : List ClaimEntry := s.claims.table.filter s.isOwn

/-- An own HELD entry that overlaps the span. -/
def State.ownHeldOverlaps (s : State) (sp : Span) : Bool :=
  s.claims.table.any fun e => s.isOwn e && e.state == .held && e.span.overlaps sp

/-- A STALE entry overlaps the span (R9, R18). -/
def State.staleOverlaps (s : State) (sp : Span) : Bool :=
  s.claims.table.any fun e => e.isStale && e.span.overlaps sp

/-- A RECOVERY claim stands in the occupancy table, own or foreign (R11, R73). -/
def State.recoveryStands (s : State) : Bool := s.claims.table.any fun e => e.kind == .recovery

/-- The table without the entry of an identity. -/
def removeEntry (origin : Rank) (number : BitVec 16) (t : List ClaimEntry) : List ClaimEntry :=
  t.filter fun e => !e.is origin number

/-- The table with the entries of an identity put in another state. -/
def putState (origin : Rank) (number : BitVec 16) (c : ClaimState) (t : List ClaimEntry) : List ClaimEntry :=
  t.map fun e => if e.is origin number then { e with state := c } else e

/-! ## The bath test (R55) -/

/-- The bath test: balance − committed amount + the reservation left out − the reservation named, at or above the
floor, on signed numbers. The committed amount is the sum over the table as it stands (R55). -/
def State.bathTest (s : State) (reservation leftOut : Nat) : Bool :=
  decide ((s.conf.floor : Int) ≤
    (s.account.balance : Int) - (reservations s.claims.table : Int) + (leftOut : Int) - (reservation : Int))

/-! ## Issuing (R9, R10, R11) -/

/-- The answers to a request for a claim (R9, R10). -/
inductive IssueAnswer where
  | notActive | ownLimit | outOfReach | notSynced | blockedCells | blockedBath
  | requesting (number : BitVec 16)
  | held (number : BitVec 16)
  deriving DecidableEq, Repr

/-- The account test of R9: SYNCED for DIP, not REBASING for SHIFT. -/
def State.accountAllows (s : State) (kind : ClaimKind) : Bool :=
  match kind with
  | .dip => s.account.state == .synced
  | _ => s.account.state != .rebasing

/-- The tests of R9 in their order: the answer of the first that fails. -/
def State.issueRefusal (s : State) (kind : ClaimKind) (sp : Span) (reservation : Nat) : Option IssueAnswer :=
  if s.roster.state != .active then some .notActive
  else if 2 ≤ s.ownEntries.length then some .ownLimit
  else if !(sp.valid s.conf.cells && withinReach (s.reachOf s.own) sp) then some .outOfReach
  else if !s.accountAllows kind then some .notSynced
  else if s.staleOverlaps sp then some .blockedCells
  else if kind == .dip && !s.bathTest reservation 0 then some .blockedBath
  else none

/-- All ranks. -/
def allRanks : List Rank := [0, 1, 2, 3, 4, 5, 6, 7]

/-- The live peers (R172): never this station's own rank. -/
def State.livePeers (s : State) : List Rank := allRanks.filter fun r => r != s.own && s.roster.peers[r].live

/-- The grant set of a new claim: the live peers whose reach meets the span, unanswered (R10). -/
def State.grantSet (s : State) (sp : Span) : List GrantSlot :=
  (s.livePeers.filter fun r => reachMeets (s.reachOf r) sp).map fun r => ⟨r, .unanswered⟩

/-- A new claim number and a new ticket taken (R7, R8). -/
def State.takeTicket (s : State) : State :=
  { s with
    claims := { s.claims with ownCounter := s.claims.ownCounter + 1 }
    roster := { s.roster with ticketCounter := heldInc s.roster.ticketCounter } }

/-- The CLAIM frame of an entry (R10, R149). -/
def ClaimEntry.frame (e : ClaimEntry) : Payload := .claim ⟨e.number, e.kind, e.ticket, e.span, e.reservation⟩

/-- An own claim entered and its CLAIM posted (R10, R11). -/
def State.enterOwn (kind : ClaimKind) (sp : Span) (reservation : Nat) (tag : Option (BitVec 16)) (c : ClaimState)
    (s : State) : State :=
  let t := s.takeTicket
  let e : ClaimEntry :=
    ⟨t.own, t.claims.ownCounter, kind, t.roster.ticketCounter, sp, reservation, c, tag⟩
  (t.setTable (t.claims.table ++ [e])).post .all e.frame

/-- A DIP or SHIFT claim issued (R10): HELD at once when no peer owes a verdict. -/
def State.issue (kind : ClaimKind) (sp : Span) (reservation : Nat) (tag : BitVec 16) (s : State) : State :=
  let grants := s.grantSet sp
  if grants.isEmpty then s.enterOwn kind sp reservation (some tag) .held
  else s.enterOwn kind sp reservation (some tag) (.requesting grants 1 (s.timer s.conf.answerWindow))

/-- A request for a claim: the tests of R9, then the issue of R10, with the answer. -/
def State.askClaim (kind : ClaimKind) (sp : Span) (reservation : Nat) (tag : BitVec 16) (s : State) :
    State × IssueAnswer :=
  match s.issueRefusal kind sp reservation with
  | some a => (s, a)
  | none =>
      let t := s.issue kind sp reservation tag
      (t, if (s.grantSet sp).isEmpty then .held t.claims.ownCounter else .requesting t.claims.ownCounter)

/-- Overlapping foreign GRANTED entries of kind DIP or SHIFT made DEFERRED (R11). -/
def State.deferGranted (sp : Span) (s : State) : State :=
  s.setTable (s.claims.table.map fun e =>
    if !s.isOwn e && e.state == .granted && e.kind != .recovery && e.span.overlaps sp then
      { e with state := .deferred }
    else e)

/-- The RECOVERY claim over the whole reach, entered HELD at once (R11). -/
def State.issueRecovery (s : State) : State :=
  match s.reachOf s.own with
  | some sp => (s.deferGranted sp).enterOwn .recovery sp 0 none .held
  | none => s

/-! ## The verdict rule (R13, R14) -/

/-- Steps 2 to 4 of the verdict rule for an entry that stands in the table (R13, R22). -/
def State.verdictOn (s : State) (e : ClaimEntry) : Verdict :=
  if e.kind == .dip && s.account.state == .synced && !s.bathTest e.reservation e.reservation then .refuse
  else if s.claims.table.any (fun o => s.isOwn o && o.span.overlaps e.span &&
      (o.state == .held || (o.isRequesting && o.earlier e))) then .defer
  else .grant

/-- The state an entry takes by a verdict (R13, R22). -/
def Verdict.entryState : Verdict → ClaimState
  | .grant => .granted
  | .defer => .deferred
  | .refuse => .noted

/-- A prior state taken by a verdict (R22). -/
def Verdict.priorState : Verdict → PriorState
  | .grant => .granted
  | .defer => .deferred
  | .refuse => .noted

/-- A VERDICT posted to a claim's origin, by an ACTIVE station (R13, R174). -/
def State.postVerdict (e : ClaimEntry) (v : Verdict) (s : State) : State :=
  if s.roster.state = .active then s.post (.rank e.origin) (.verdict e.number v (v == .refuse)) else s

/-- The verdict a repeated CLAIM is answered with, by the state its entry stands for (R14). -/
def State.repeatVerdict (s : State) (e : ClaimEntry) : Option Verdict :=
  let refused := if s.meets e.span then some Verdict.refuse else none
  match e.state with
  | .deferred => some .defer
  | .granted => some .grant
  | .noted => refused
  | .stale .deferred => some .defer
  | .stale .granted => some .grant
  | .stale .noted => refused
  | .requesting _ _ _ => none
  | .held => none

/-- A repeated CLAIM answered (R14); a repeated RECOVERY CLAIM changes nothing (R15). -/
def State.answerRepeat (e : ClaimEntry) (s : State) : State :=
  if e.kind = .recovery then s
  else
    match s.repeatVerdict e with
    | some v => s.postVerdict e v
    | none => s

/-! ## Re-evaluation (R22) -/

/-- An entry that re-evaluation decides again: DEFERRED, or STALE with prior state DEFERRED (R22). -/
def ClaimEntry.isDeferred (e : ClaimEntry) : Bool := e.state == .deferred || e.state == .stale .deferred

/-- An entry put among entries in ticket order. Two entries of one origin with equal ticket values (possible where the
counter stands at 4,294,967,295, R7) R6 does not order: the one later in the table comes first, the model's choice (log
50). -/
def insertByTicket (e : ClaimEntry) : List ClaimEntry → List ClaimEntry
  | [] => [e]
  | f :: rest => if e.earlier f then e :: f :: rest else f :: insertByTicket e rest

/-- Entries in order of ticket, earliest first (R22). -/
def sortByTicket (l : List ClaimEntry) : List ClaimEntry := l.foldr insertByTicket []

/-- One entry decided again (R22). Nothing is posted for a STALE one, nor for one that stays DEFERRED. -/
def State.decideAgain (s : State) (e : ClaimEntry) : State :=
  let v := s.verdictOn e
  match e.state with
  | .stale _ => s.setTable (putState e.origin e.number (.stale v.priorState) s.claims.table)
  | _ =>
      let t := s.setTable (putState e.origin e.number v.entryState s.claims.table)
      if v = .defer then t else t.postVerdict e v

/-- Re-evaluation (R22). -/
def State.reevaluate (s : State) : State :=
  (sortByTicket (s.claims.table.filter ClaimEntry.isDeferred)).foldl State.decideAgain s

/-! ## Ending a claim (R17, R21, R29) -/

/-- An own claim released or withdrawn: RELEASE posted, the entry removed, re-evaluation run (R21). A number that is
not in the table changes nothing. -/
def State.endClaim (number : BitVec 16) (s : State) : State :=
  match s.entryOf s.own number with
  | none => s
  | some _ =>
      let t := s.post .all (.release number)
      (t.setTable (removeEntry t.own number t.claims.table)).reevaluate

/-- The RECOVERY claim's end test when a LIFT_CLEAR move completes (R29). -/
def State.endRecovery (s : State) : State :=
  if s.bothClear then
    match s.claims.table.find? (fun e => s.isOwn e && e.kind == .recovery) with
    | some e => s.endClaim e.number
    | none => s
  else s

/-! ## Deferred marks and departures (R20, R25) -/

/-- A grant set with one rank's mark set. -/
def markRank (r : Rank) (m : GrantMark) (g : List GrantSlot) : List GrantSlot :=
  g.map fun x => if x.rank = r then { x with mark := m } else x

/-- A grant set without a rank. -/
def dropRank (r : Rank) (g : List GrantSlot) : List GrantSlot := g.filter fun x => x.rank != r

/-- An own REQUESTING entry with its grant set changed. -/
def ClaimEntry.mapGrants (f : List GrantSlot → List GrantSlot) (e : ClaimEntry) : ClaimEntry :=
  match e.state with
  | .requesting g n w => { e with state := .requesting (f g) n w }
  | _ => e

/-- R20: the mark of a rank set back to unanswered in every own REQUESTING entry. -/
def State.unmark (r : Rank) (s : State) : State :=
  s.setTable (s.claims.table.map (ClaimEntry.mapGrants (markRank r .unanswered)))

/-- The prior state a departing entry keeps; none for an entry that does not become STALE (R25). -/
def ClaimState.prior? : ClaimState → Option PriorState
  | .noted => some .noted
  | .deferred => some .deferred
  | .granted => some .granted
  | _ => none

/-- An entry of a departed origin made STALE (R25). -/
def ClaimEntry.makeStale (r : Rank) (e : ClaimEntry) : ClaimEntry :=
  if e.origin = r then
    match e.state.prior? with
    | some p => { e with state := .stale p }
    | none => e
  else e

/-- R25: a departed rank's entries become STALE, and it leaves every own grant set. -/
def State.departClaims (r : Rank) (s : State) : State :=
  s.setTable (s.claims.table.map fun e => (e.makeStale r).mapGrants (dropRank r))

/-! ## The requester's part (R17, R18, R78) -/

/-- The active segment is a SHIFT in phase NEGOTIATING (R105, R106). -/
def State.inNegotiation (s : State) : Bool :=
  s.seq.activity == .segment && s.seq.phase == some .negotiating

/-- REFUSED told to the requester of a claim (R17, R78): the job waits for the bath; a SHIFT waits to ask again
(log 15). -/
def State.tellRefused (number : BitVec 16) (s : State) : State :=
  match s.activeJob with
  | none => s
  | some j =>
      if j.claim = some ⟨number, false⟩ then s.updateHead fun k => { k with state := .waitBath, claim := none }
      else if j.shiftClaim = some ⟨number, false⟩ then
        let t := s.updateHead fun k => { k with shiftClaim := none }
        if t.inNegotiation then t.setPhase .waiting else t
      else s

/-- HELD told to the requester of a claim (R78, R83, R106). -/
def State.tellHeld (number : BitVec 16) (s : State) : State :=
  match s.activeJob with
  | none => s
  | some j =>
      if j.claim = some ⟨number, false⟩ then
        (s.updateHead fun k => { k with claim := some ⟨number, true⟩ }).setClaimWait none
      else if j.shiftClaim = some ⟨number, false⟩ then
        let t := (s.updateHead fun k => { k with shiftClaim := some ⟨number, true⟩ }).setClaimWait none
        if t.inNegotiation then t.setPhase .held else t
      else s

/-- An own REQUESTING entry that may become HELD: its grant set empty and no STALE entry over its span (R18). -/
def State.promotable (s : State) (e : ClaimEntry) : Bool :=
  s.isOwn e && !s.staleOverlaps e.span &&
    match e.state with
    | .requesting [] _ _ => true
    | _ => false

/-- An own REQUESTING entry becomes HELD, and its requester is told (R18). -/
def State.becomeHeld (s : State) (e : ClaimEntry) : State :=
  (s.setTable (putState e.origin e.number .held s.claims.table)).tellHeld e.number

/-- The first own REQUESTING entry that may become HELD does (R18): a reaction of an event (log 11). -/
def State.promote (s : State) : Option State := (s.claims.table.find? s.promotable).map s.becomeHeld

/-- R18's test as STALE entries leave the table: every own REQUESTING entry that may become HELD does, before the event
goes on. -/
def State.promoteAll (s : State) : State := (s.claims.table.filter s.promotable).foldl State.becomeHeld s

/-! ## Taking the frames of the claim protocol -/

/-- A span and origin the Claim Unit does not discard (R1): the span valid, the origin in the reach table. -/
def State.claimSound (s : State) (origin : Rank) (sp : Span) : Bool :=
  sp.valid s.conf.cells && (s.reachOf origin).isSome

/-- The third-claim rule (R12): with 2 entries of the origin numbered otherwise, its earliest-ticketed one goes. -/
def thirdClaim (origin : Rank) (number : BitVec 16) (t : List ClaimEntry) : List ClaimEntry :=
  match sortByTicket (t.filter fun e => e.origin == origin && e.number != number) with
  | e :: _ :: _ => removeEntry e.origin e.number t
  | _ => t

/-- A foreign entry from a listed claim, in a state. It keeps the reservation the frame carries, a RECOVERY claim's too: no
rule tests whether that is the 0 of R54 and R58 (log 55). -/
def ListedClaim.entry (c : ListedClaim) (origin : Rank) (st : ClaimState) : ClaimEntry :=
  ⟨origin, c.number, c.kind, c.ticket, c.span, c.reservation, st, none⟩

/-- A CONFLICT cause latched when a RECOVERY claim overlaps an own HELD claim (R15, R119). -/
def State.testConflict (origin : Rank) (c : ListedClaim) (s : State) : State :=
  if c.kind == .recovery && s.ownHeldOverlaps c.span then s.latch .conflict (.recovery origin c.number) else s

/-- The entries that give way to a new claim leave the table: a left-over entry of its identity, and by the third-claim
rule the origin's earliest; as STALE entries leave, R18's test is made (R12, R18). -/
def State.makeRoom (origin : Rank) (number : BitVec 16) (s : State) : State :=
  (s.setTable (thirdClaim origin number (removeEntry origin number s.claims.table))).promoteAll

/-- A claim's entry added at the table's end. -/
def State.addClaim (e : ClaimEntry) (s : State) : State := s.setTable (s.claims.table ++ [e])

/-- A new claim entered, its state set by the verdict rule and its verdict posted (R12, R13, R15). -/
def State.enterNew (origin : Rank) (c : ListedClaim) (s : State) : State :=
  let r := s.makeRoom origin c.number
  if c.kind = .recovery then (r.addClaim (c.entry origin .granted)).testConflict origin c
  else if !s.meets c.span then r.addClaim (c.entry origin .noted)
  else
    let e := c.entry origin .granted
    let t := r.addClaim e
    let v := t.verdictOn e
    (t.setTable (putState origin c.number v.entryState t.claims.table)).postVerdict e v

/-- A CLAIM taken (R1, R7, R12 to R15). The ticket counter rises before the claim is tested (R7, R12). -/
def State.takeClaim (origin : Rank) (c : ListedClaim) (s : State) : State :=
  let t := s.raiseTicket c.ticket
  if t.claimSound origin c.span then
    match t.entryOf origin c.number with
    | some e => if e.ticket = c.ticket then t.answerRepeat e else t.enterNew origin c
    | none => t.enterNew origin c
  else t

/-- A VERDICT taken on an own REQUESTING entry whose grant set holds the sender (R16). The withdrawal of R17 tells
the requester by `told`. -/
def State.takeVerdict (sender : Rank) (number : BitVec 16) (v : Verdict) (told : State → State) (s : State) :
    State :=
  match s.entryOf s.own number with
  | some e =>
      match e.state with
      | .requesting g n w =>
          if g.any (fun x => x.rank == sender) then
            match v with
            | .grant =>
                s.setTable (putState s.own number (.requesting (dropRank sender g) n w) s.claims.table)
            | .defer =>
                s.setTable (putState s.own number (.requesting (markRank sender .deferred g) n w) s.claims.table)
            | .refuse => told (s.endClaim number)
          else s
      | _ => s
  | none => s

/-- A RELEASE taken (R23): the named entry of its sender removed in whatever state, and R20 applied; one that is not
in the table is ignored. -/
def State.takeRelease (sender : Rank) (number : BitVec 16) (s : State) : State :=
  match s.entryOf sender number with
  | some _ => (s.setTable (removeEntry sender number s.claims.table)).unmark sender
  | none => s

/-- The STALE entries of a rank. -/
def State.staleOf (s : State) (r : Rank) : List ClaimEntry :=
  s.claims.table.filter fun e => e.isStale && e.origin == r

/-- The STALE entries of a rank removed (R28). -/
def State.vacateRank (r : Rank) (s : State) : State :=
  s.setTable (s.claims.table.filter fun e => !(e.isStale && e.origin == r))

/-- Census repair (R24): an entry of the sender that is not STALE, not in the census, and ticketed below the sender's
counter is swept. -/
def swept (sender : Rank) (f : BeaconFields) (e : ClaimEntry) : Bool :=
  e.origin == sender && !e.isStale && !f.census.contains e.number && decide (e.ticket < f.ticketCounter)

/-- The Claim Unit's part of a BEACON (R7, R24). -/
def State.censusRepair (sender : Rank) (f : BeaconFields) (s : State) : State :=
  let t := s.raiseTicket f.ticketCounter
  if t.claims.table.any (swept sender f) then
    (t.setTable (t.claims.table.filter fun e => !swept sender f e)).unmark sender
  else t

/-- One claim listed in a STATE entered (R18, R27, step 3). A RECOVERY claim that stands STALE in the table and is entered
again latches CONFLICT: R27 latches it for one "entered this way", R119 not again for one already in the table, and the
model follows R27 (log 52). -/
def State.enterListed (sender : Rank) (s : State) (c : ListedClaim) : State :=
  if s.claimSound sender c.span then
    let stands := s.claims.table.any fun e => e.is sender c.number && e.ticket == c.ticket && !e.isStale
    if stands then s
    else
      let st : ClaimState := if c.kind = .recovery ∨ s.meets c.span then .granted else .noted
      let r := (s.setTable (removeEntry sender c.number s.claims.table)).promoteAll
      (r.addClaim (c.entry sender st)).testConflict sender c
  else s

/-- The Claim Unit's part of a STATE (R7, R18, R27). -/
def State.takeState (sender : Rank) (ticketCounter : Nat) (claims : List ListedClaim) (s : State) : State :=
  let t := claims.foldl (fun u c => u.raiseTicket c.ticket) (s.raiseTicket ticketCounter)
  let kept := t.claims.table.filter fun e => e.origin != sender || claims.any fun c => c.number == e.number
  (claims.foldl (State.enterListed sender) (t.setTable kept).promoteAll).unmark sender

/-- The answer window of an own REQUESTING entry expired (R19): it starts again, and the CLAIM is posted again while a
rank is unanswered. -/
def State.resendClaim (e : ClaimEntry) (s : State) : State :=
  match e.state with
  | .requesting g n _ =>
      let w := s.timer s.conf.answerWindow
      if g.any (fun x => x.mark == .unanswered) then
        (s.setTable (putState e.origin e.number (.requesting g (satInc n) w) s.claims.table)).post .all e.frame
      else s.setTable (putState e.origin e.number (.requesting g n w) s.claims.table)
  | _ => s

end Sys2Proof.Machine
end

