-- ==== Sys2Proof/Machine/Accounts.lean ====
section
/-! DEFINITION. The Account Unit's operations (02, 03): applying an amount, originating entries, the retained and
holding lists, gaps, the split check, the rebase and checkpoints. -/

namespace Sys2Proof.Machine

/-- The account changed. -/
def State.setAccount (a : Account) (s : State) : State := { s with account := a }

/-! ## Applying (R32, R33) -/

/-- A checkpoint asked for (R66): entries-since-checkpoint 0, the pending flag set. -/
def State.askCheckpoint (s : State) : State :=
  s.setAccount { s.account with sinceCheckpoint := 0, checkpointPending := true }

/-- The exact result of an amount on a balance (R32). -/
def exactBalance (balance : Nat) (amount : Int) : Int := (balance : Int) + amount

/-- A balance held within 0 to 4,294,967,295 (R32). -/
def heldBalance (i : Int) : Nat := min i.toNat max32

/-- The result lies outside the balance's range (R32). -/
def outOfRange (i : Int) : Bool := decide (i < 0) || decide ((max32 : Int) < i)

/-- A clamp counted: the clamp count rises and ACCOUNT_EVENT is raised (R32). -/
def State.countClamp (s : State) : State :=
  (s.setAccount { s.account with clampCount := satInc s.account.clampCount }).raise .accountEvent

/-- Entries-since-checkpoint raised; at 64 a checkpoint is asked for (R32, R66). -/
def State.countApplied (s : State) : State :=
  if s.account.sinceCheckpoint + 1 < 64 then
    s.setAccount { s.account with sinceCheckpoint := s.account.sinceCheckpoint + 1 }
  else s.askCheckpoint

/-- An amount applied to the balance, and Job Control told of it (R32). -/
def State.applyAmount (amount : Int) (s : State) : State :=
  let i := exactBalance s.account.balance amount
  let t := s.setAccount { s.account with balance := heldBalance i }
  (if outOfRange i then t.countClamp else t).countApplied.tellAccountChange

/-- The test of R33 after a change of the balance: a BATH cause while a job is RUNNING and the balance is below the
floor. -/
def State.testFloor (s : State) : State :=
  if s.account.balance < s.conf.floor ∧ s.runningJob.isSome then s.latch .bath (.balance s.account.balance) else s

/-! ## Originating (R36, R37, R39) -/

/-- The retained list with an entry appended; of 17 the oldest is discarded (R39). -/
def retain (e : Entry) (l : List Entry) : List Entry :=
  if l.length < 16 then l ++ [e] else l.tail ++ [e]

/-- The ENTRY frame of an entry (R34, R149). -/
def Entry.frame (e : Entry) : Payload := .entry e.seq e.kind e.amount e.time e.dipId

/-- An entry originated (R37): numbered, stamped, applied, retained and posted. -/
def State.originate (kind : EntryKind) (amount : Int) (dipId : Option Nat) (s : State) : State :=
  let e : Entry := ⟨s.own, s.account.ownNext, kind, amount, s.now, dipId⟩
  let t := (s.setAccount { s.account with
    ownNext := heldInc s.account.ownNext
    ownSpent := s.account.ownSpent || s.account.ownNext == max32 }).applyAmount amount
  let u := (t.testFloor).setApplied e.origin e.seq
  (u.setAccount { u.account with retained := retain e u.account.retained }).post .all e.frame

/-- A DRAW originated: a draw above 16,000,000 g as −16,000,000 g with ACCOUNT_EVENT (R36). -/
def State.originateDraw (d : DeferredDraw) (s : State) : State :=
  if maxMass < d.draw then
    (s.raise .accountEvent).originate .draw (-(maxMass : Int)) (some d.dipId)
  else s.originate .draw (-(d.draw : Int)) (some d.dipId)

/-- Job Control's request for a DRAW (R36): originated at once, or kept while REBASING. -/
def State.askDraw (d : DeferredDraw) (s : State) : State :=
  if s.account.state = .rebasing then s.setAccount { s.account with deferredDraw := some d }
  else s.originateDraw d

/-- The deferred draw originated, if one is present (R36, R63 step 6). -/
def State.originateDeferred (s : State) : State :=
  match s.account.deferredDraw with
  | some d => (s.setAccount { s.account with deferredDraw := none }).originateDraw d
  | none => s

/-! ## Received entries (R41 to R44, R46) -/

/-- The field check of R34: amount not 0 and of its kind's sign, seq not 0. -/
def Entry.sound (e : Entry) : Bool :=
  e.seq != 0 &&
    match e.kind with
    | .draw => decide (e.amount < 0)
    | .skim => decide (e.amount < 0)
    | .charge => decide (0 < e.amount)
    | .adjust => e.amount != 0

/-- The entry has the same identity (R34). -/
def Entry.same (e f : Entry) : Bool := e.origin == f.origin && e.seq == f.seq

/-- An entry put on the holding list, unless its identity is there or it holds 8 (R43, R44). -/
def State.hold (e : Entry) (s : State) : State :=
  if s.account.holding.any e.same || decide (8 ≤ s.account.holding.length) then s
  else s.setAccount { s.account with holding := s.account.holding ++ [e] }

/-- An entry in line applied, and its origin's element of the vector set (R42). -/
def State.applyInLine (e : Entry) (s : State) : State :=
  (s.applyAmount e.amount).setApplied e.origin e.seq

/-- The held entry of an origin that is next in line (R42). -/
def State.nextHeld (s : State) (r : Rank) : Option Entry :=
  s.account.holding.find? fun e => e.origin == r && e.seq == s.account.applied[r] + 1

/-- The chain of R42: held entries of an origin now next in line applied in turn by `apply`; `fuel` bounds the search
by the list's length. -/
def State.chain (apply : Entry → State → State) (r : Rank) : Nat → State → State
  | 0, s => s
  | fuel + 1, s =>
      match s.nextHeld r with
      | some e =>
          State.chain apply r fuel
            (apply e (s.setAccount { s.account with holding := s.account.holding.filter fun f => !e.same f }))
      | none => s

/-- The held entries of an origin at or below its applied seq removed as duplicates (R42). -/
def State.dropDuplicates (r : Rank) (s : State) : State :=
  s.setAccount { s.account with
    holding := s.account.holding.filter fun e => !(e.origin == r && decide (e.seq ≤ s.account.applied[r])) }

/-- Every gap record is closed. -/
def State.allClosed (s : State) : Bool := s.account.gaps.toList.all Option.isNone

/-- The test of R46: the origin's record closed when applied reaches its target, and GAPPED back to SYNCED when every
record is closed and nothing is held. -/
def State.testGap (r : Rank) (s : State) : State :=
  let t := match s.account.gaps[r] with
    | some g => if g.target ≤ s.account.applied[r] then s.setGap r none else s
    | none => s
  if t.account.state == .gapped && t.allClosed && t.account.holding.isEmpty then t.setAccountState .synced else t

/-- An entry next in line (R42), each application tested against the floor (R33). -/
def State.takeInLine (e : Entry) (s : State) : State :=
  let apply := fun (f : Entry) (u : State) => (u.applyInLine f).testFloor
  let t := apply e s
  (((State.chain apply e.origin t.account.holding.length t).dropDuplicates e.origin)).testGap e.origin

/-- A GAP posted to an origin, naming the first missing seq, its last-request time set (R43, R47, R48). -/
def State.askGap (r : Rank) (target : Nat) (s : State) : State :=
  (s.setGap r (some ⟨target, s.now⟩)).post (.rank r) (.gap (s.account.applied[r] + 1))

/-- SYNCED becomes GAPPED (R43, R47). -/
def State.becomeGapped (s : State) : State :=
  if s.account.state = .synced then s.setAccountState .gapped else s

/-- A gap record opened with its GAP posted, or its target raised (R43, R47). -/
def State.openGap (r : Rank) (seq : Nat) (s : State) : State :=
  match s.account.gaps[r] with
  | none => s.askGap r seq
  | some g => s.setGap r (some { g with target := max g.target seq })

/-- An entry ahead of a gap (R43). -/
def State.takeAhead (e : Entry) (s : State) : State := ((s.hold e).openGap e.origin e.seq).becomeGapped

/-- An ENTRY taken (R41). The origin's exclusion is the Roster's test (R169). -/
def State.takeEntry (e : Entry) (s : State) : State :=
  if e.origin = s.own ∨ e.sound = false then s
  else if s.applying then
    if e.seq = s.account.applied[e.origin] + 1 then s.takeInLine e
    else if e.seq ≤ s.account.applied[e.origin] then s
    else s.takeAhead e
  else s.hold e

/-- The holding list worked through on leaving STARTING or REBASING (R44), rank by rank (log 22); each application is
R32's alone (log 25). -/
def State.workThrough (s : State) : State :=
  let t := allRanks.foldl (fun u r => State.chain State.applyInLine r u.account.holding.length u) s
  t.setAccount { t.account with holding := [] }

/-! ## Serving gaps (R49) -/

/-- The latest seq this station originated: the own next sequence minus one, or the last seq itself once it has been
originated (R37, R49, log 53). -/
def State.latestOwn (s : State) : Nat := if s.account.ownSpent then max32 else s.account.ownNext - 1

/-- A GAP answered from the retained list (R49). -/
def State.takeGap (requester : Rank) (seq : Nat) (s : State) : State :=
  if seq = 0 ∨ s.latestOwn < seq then s
  else
    match s.account.retained with
    | [] => s.post (.rank requester) (.gone s.account.ownNext)
    | oldest :: _ =>
        if seq < oldest.seq then s.post (.rank requester) (.gone oldest.seq)
        else
          (s.account.retained.filter fun e => decide (seq ≤ e.seq)).foldl
            (fun u e => u.post (.rank requester) e.frame) s

/-! ## The rebase (R59 to R64) -/

/-- The lowest-ranked live peer whose record shows SYNCED (R60). -/
def State.syncedPeer (s : State) : Option Rank :=
  s.livePeers.find? fun r => s.roster.peers[r].account == some .synced

/-- The fetch timer's length (R59). -/
def fetchTime : Nat := 500

/-- A FETCH posted to a target, if there is one, and the fetch timer started (R59, R61). -/
def State.fetchFrom (target : Option Rank) (s : State) : State :=
  let t := match target with
    | some r => s.post (.rank r) (.fetch s.account.rebaseNumber)
    | none => s
  t.setAccount { t.account with fetchTarget := target, fetchTimer := some (t.timer fetchTime) }

/-- A rebase begun (R59), with the target a split names or the general choice (R60); from SYNCED or GAPPED it raises
ACCOUNT_EVENT (R31). -/
def State.beginRebase (target : Option Rank) (s : State) : State :=
  let t := if s.applying then s.raise .accountEvent else s
  let u := (t.setAccount { t.account with
    rebaseNumber := t.account.rebaseNumber + 1
    gaps := Vector.replicate 8 none }).setAccountState .rebasing
  u.fetchFrom (target.orElse fun _ => u.syncedPeer)

/-- A FETCH taken (R62). -/
def State.takeFetch (requester : Rank) (number : BitVec 16) (s : State) : State :=
  if s.account.state = .synced then
    s.post (.rank requester) (.snapshot number s.account.balance s.account.applied)
  else s

/-- Own entries applied again on the new balance, in seq order (R64, step 2). -/
def State.reapplyOwn (l : List Entry) (s : State) : State :=
  l.foldl (fun u e => (u.applyAmount e.amount).setApplied u.own e.seq) s

/-- ACCOUNT_EVENT when the oldest entry left lies above the next one the snapshot would take (R64, step 2). -/
def State.noteLostOwn (seen : Nat) (s : State) : State :=
  match s.account.retained with
  | e :: _ => if seen + 1 < e.seq then s.raise .accountEvent else s
  | [] => s

/-- The station's own entries reconciled with a snapshot whose view of them is `seen` (R64). -/
def State.reconcile (seen : Nat) (s : State) : State :=
  let t := s.setAccount { s.account with retained := s.account.retained.filter fun e => decide (seen < e.seq) }
  let u := (t.reapplyOwn t.account.retained).noteLostOwn seen
  u.setAccount { u.account with
    ownNext := max u.account.ownNext (min (seen + 1) max32)
    ownSpent := u.account.ownSpent || seen == max32 }

/-- A SNAPSHOT taken (R63), in its eight steps. -/
def State.takeSnapshot (number : BitVec 16) (balance : Nat) (applied : Vector Nat 8) (s : State) : State :=
  if s.account.state = .rebasing ∧ number = s.account.rebaseNumber then
    let t := s.setAccount { s.account with
      fetchTimer := none
      fetchTarget := none
      gaps := Vector.replicate 8 none
      balance := balance
      applied := applied }
    let u := ((t.reconcile applied[t.own]).workThrough).setAccountState .synced
    (u.originateDeferred.testFloor).askCheckpoint
  else s

/-! ## The beacon's three checks (R38, R40, R47, R48, R53) -/

/-- The seq of this station's entries a live peer has applied, by its latest beacon; 0 without one (R40). -/
def State.peerSeen (s : State) (r : Rank) : Nat :=
  match s.roster.peers[r].beacon with
  | some b => b.applied[s.own]
  | none => 0

/-- The least of them over the live peers (R40). -/
def leastOf : List Nat → Nat
  | [] => 0
  | [n] => n
  | n :: m :: rest => min n (leastOf (m :: rest))

/-- The retained list trimmed at a live peer's BEACON (R40). -/
def State.trimRetained (sender : Rank) (s : State) : State :=
  if s.roster.peers[sender].live then
    let least := leastOf (s.livePeers.map s.peerSeen)
    s.setAccount { s.account with retained := s.account.retained.filter fun e => decide (least < e.seq) }
  else s

/-- An open record still short: asked again when a beacon period has passed since its last request (R48). -/
def State.resendGap (r : Rank) (g : OpenGap) (s : State) : State :=
  if s.conf.beaconPeriod ≤ (s.now - g.lastRequest).toNat then s.askGap r g.target else s

/-- The gap check for a beacon's sender (R47). -/
def State.gapCheck (sender : Rank) (ownSeq : Nat) (s : State) : State :=
  if !s.applying then s
  else if s.account.applied[sender] < ownSeq then
    match s.account.gaps[sender] with
    | none => (s.askGap sender ownSeq).becomeGapped
    | some g =>
        let raised : OpenGap := { g with target := max g.target ownSeq }
        (s.setGap sender (some raised)).resendGap sender raised
  else
    match s.account.gaps[sender] with
    | some _ => s.beginRebase none
    | none => s

/-- The split check (R53). -/
def State.splitCheck (sender : Rank) (f : BeaconFields) (s : State) : State :=
  if s.applying && (f.account == .synced || f.account == .gapped) && f.applied == s.account.applied &&
      f.balance != s.account.balance then
    let t := s.raise .accountEvent
    if sender < s.own then t.beginRebase (some sender) else t
  else s

/-- The Account Unit's part of a BEACON: trimming, gap check, split check, in this order (R38). -/
def State.accountBeacon (sender : Rank) (f : BeaconFields) (s : State) : State :=
  ((s.trimRetained sender).gapCheck sender f.ownSeq).splitCheck sender f

/-- A GONE taken (R50). -/
def State.takeGone (sender : Rank) (seq : Nat) (s : State) : State :=
  if !s.applying || s.account.gaps[sender].isNone || decide (seq ≤ s.account.applied[sender] + 1) then s
  else s.beginRebase none

/-- The departure of a rank whose gap record is open (R51). -/
def State.departAccount (r : Rank) (s : State) : State :=
  if s.applying && s.account.gaps[r].isSome then s.beginRebase none else s

/-! ## The end of the join and checkpoints (R67, R69, R176) -/

/-- The end of the join: a rebase from a live SYNCED peer, or the checkpoint copy taken as SYNCED (R69, R176). -/
def State.settleAccount (s : State) : State :=
  if s.syncedPeer.isSome then s.beginRebase none else s.workThrough.setAccountState .synced

/-- A pending checkpoint placed as soon as a buffer counts as FREE and the log is neither FULL nor in FAULT (R67). -/
def State.placeCheckpoint (s : State) : Option State :=
  if s.account.checkpointPending && s.log.state != .full && s.log.state != .fault then
    match s.log.freeBuffer with
    | some i =>
        let t := s.placeReady i
          (.checkpoint s.account.balance s.account.applied s.account.ownNext s.roster.ticketCounter)
        some (t.setAccount { t.account with checkpointPending := false })
    | none => none
  else none

/-- The newest checkpoint loaded, or ACCOUNT_EVENT when the log holds none (R69). -/
def State.loadCheckpoint (c : Option RecordBody) (s : State) : State :=
  match c with
  | some (.checkpoint balance applied ownNext ticket) =>
      (s.setAccount { s.account with
        balance := balance, applied := applied, ownNext := ownNext, ownSpent := applied[s.own] == max32
        sinceCheckpoint := 0 }).raiseTicket ticket
  | _ => s.raise .accountEvent

end Sys2Proof.Machine
end

