-- ==== Sys2Proof/Machine/Log.lean ====
section
/-! DEFINITION. The Log Store's operations (10): moving the write position, commits, erases, area writes, the start-up
scan, and what a reset leaves in the array. -/

namespace Sys2Proof.Machine

/-- The Log Store changed. -/
def State.setLog (l : LogStore) (s : State) : State := { s with log := l }

/-- The pages of the array changed. -/
def State.setPages (p : List (Nat × PageContent)) (s : State) : State := { s with flash := { s.flash with pages := p } }

/-! ## Buffers and commits -/

/-- A COMMITTING buffer put back to READY (R185, R186). -/
def Buffer.toReady : Buffer → Buffer
  | .committing r => .ready r
  | b => b

/-- The record of a COMMITTING buffer. -/
def Buffer.committing? : Buffer → Option Record
  | .committing r => some r
  | _ => none

/-- The record of a READY buffer. -/
def Buffer.ready? : Buffer → Option Record
  | .ready r => some r
  | _ => none

/-- The COMMITTING buffer and its record: at most one (R182). -/
def LogStore.committing (l : LogStore) : Option (BufferId × Record) :=
  match l.bufA.committing?, l.bufB.committing? with
  | some r, _ => some (.a, r)
  | none, some r => some (.b, r)
  | none, none => none

/-- The READY record of buffer B, `q`, is older than that of buffer A, `r`: its sequence is lower or, where both bear
the last sequence, A's was made READY last (R181, R184, R188, log 44). -/
def LogStore.olderB (l : LogStore) (r q : Record) : Bool :=
  decide (q.seq < r.seq) || (q.seq == r.seq && l.lastReady == some .a)

/-- The READY buffer whose commit goes first (R184). -/
def LogStore.nextReady (l : LogStore) : Option (BufferId × Record) :=
  match l.bufA.ready?, l.bufB.ready? with
  | some r, some q => if l.olderB r q then some (.b, q) else some (.a, r)
  | some r, none => some (.a, r)
  | none, some q => some (.b, q)
  | none, none => none

/-- Both buffers out of COMMITTING (R185, R186). -/
def LogStore.backToReady (l : LogStore) : LogStore := { l with bufA := l.bufA.toReady, bufB := l.bufB.toReady }

/-! ## The write position (R186) -/

/-- The log enters FULL with a blocked section marked erase needed: LOG_FULL, no write position, and a COMMITTING
buffer back to READY (R186). -/
def State.enterFull (sect : Nat) (s : State) : State :=
  (s.setLog { s.log.backToReady with
    state := .full, writePos := none, eraseDue := none, blocked := some ⟨sect, true⟩ }).raise .logFull

/-- The section ahead looked at from the end of a section (R186). -/
def State.lookAhead (sect : Nat) (s : State) : State :=
  if sectionLocked s.log.locks (sectionAhead sect) then s.enterFull (sectionAhead sect)
  else s.setLog { s.log with eraseDue := some (sectionAhead sect) }

/-- The write position moved on from page `p` of its section (R186). -/
def State.advanceFrom (p : Nat) (s : State) : State :=
  match nextEmptyAfter s.flash.pages p with
  | some q => s.setLog { s.log with writePos := some q }
  | none => s.lookAhead (sectionOf p)

/-- The write position advanced (R186). -/
def State.advance (s : State) : State :=
  match s.log.writePos with
  | some p => s.advanceFrom p
  | none => s

/-! ## Starting the array operations (R178, R184, R186) -/

/-- Nothing is in flight, the log is OPEN and no area write waits. -/
def LogStore.mayStart (l : LogStore) : Bool := l.state == .opened && l.op == .none && l.areaWrite.isNone

/-- An area write that waits begins when the array operation is NONE (R191). -/
def State.beginAreaWrite (s : State) : Option State :=
  if s.log.op == .none && s.log.areaWrite.isSome then some (s.setLog { s.log with op := .areaWrite }) else none

/-- The erase of a section begun: every page of it reads EMPTY and the write position is its first page (R186,
R187). -/
def State.eraseSection (sect : Nat) (s : State) : State :=
  (s.setPages (emptySection sect s.flash.pages)).setLog
    { s.log with op := .erase sect, writePos := some (firstPage sect), eraseDue := none }

/-- A due erase begins, or finds its section locked (R186). -/
def State.beginErase (s : State) : Option State :=
  if s.log.mayStart then
    match s.log.eraseDue with
    | some sect =>
        some (if sectionLocked s.log.locks sect then s.enterFull sect else s.eraseSection sect)
    | none => none
  else none

/-- A commit begins, or the next attempt of a commit that an erase held up (R184, R185). -/
def State.beginCommit (s : State) : Option State :=
  if s.log.mayStart && s.log.eraseDue.isNone && s.log.writePos.isSome then
    match s.log.committing, s.log.nextReady with
    | some _, _ => some (s.setLog { s.log with op := .program })
    | none, some (i, r) => some (s.setLog { s.log.setBuffer i (.committing r) with op := .program })
    | none, none => none
  else none

/-! ## Ends of the array operations -/

/-- The record sequence has reached its end (R181): FAULT, with the write position moved within its section only
(log 18). -/
def State.endSequence (p : Nat) (s : State) : State :=
  (s.setLog { s.log with
    state := .fault, writePos := some ((nextEmptyAfter s.flash.pages p).getD p) }).raise .logFault

/-- A commit whose read-back matched (R185). -/
def State.commitMatched (i : BufferId) (r : Record) (p : Nat) (s : State) : State :=
  let t := (s.setPages (putPage p (.record r) s.flash.pages)).setLog
    { s.log.setBuffer i .free with failures := 0, op := .none }
  if r.seq < max32 then t.advanceFrom p else t.endSequence p

/-- The next attempt goes on at once when the log is still OPEN and no erase is due; otherwise the array operation
becomes NONE (R185). -/
def LogStore.continueCommit (l : LogStore) : LogStore :=
  if l.state = .opened ∧ l.eraseDue = none then l else { l with op := .none }

/-- A commit whose read-back did not match (R185). -/
def State.commitFailed (p : Nat) (s : State) : State :=
  let t := (s.setPages (putPage p .invalid s.flash.pages)).setLog { s.log with failures := s.log.failures + 1 }
  if t.log.failures < 3 then
    let u := t.advanceFrom p
    u.setLog u.log.continueCommit
  else (t.setLog { t.log.backToReady with state := .fault, op := .none }).raise .logFault

/-- The end of a commit (R185); with no commit in flight nothing (log 3). -/
def State.endCommit (isMatch : Bool) (s : State) : State :=
  match s.log.op, s.log.committing, s.log.writePos with
  | .program, some (i, r), some p => if isMatch then s.commitMatched i r p else s.commitFailed p
  | _, _, _ => s

/-- The end of an erase; the pages at these offsets do not read EMPTY (R187, log 32). With none in flight nothing
(log 3). -/
def State.endErase (notEmpty : List Nat) (s : State) : State :=
  match s.log.op with
  | .erase sect =>
      let offs := notEmpty.filter (· < pagesPerSection)
      let t := (s.setPages (putInvalid sect offs s.flash.pages)).setLog { s.log with op := .none }
      match nextEmpty t.flash.pages pagesPerSection (firstPage sect) with
      | some q => t.setLog { t.log with writePos := some q }
      | none => t.lookAhead sect
  | _ => s

/-! ## What the pages hold (R193) -/

/-- The records of the array with their pages. -/
def recordsOf (pages : List (Nat × PageContent)) : List (Nat × Record) :=
  pages.filterMap fun q =>
    match q.2 with
    | .record r => some (q.1, r)
    | .invalid => none

/-- The one of a list of records that has the highest record sequence. Of two that both bear the last one,
4,294,967,295, the one on the lower page: the model's choice, for which the manual gives no rule (log 48). -/
def newestOf : List (Nat × Record) → Option (Nat × Record)
  | [] => none
  | q :: rest =>
      match newestOf rest with
      | some r => if q.2.seq < r.2.seq then some r else some q
      | none => some q

/-- The newest record and its page (R193). -/
def newestRecord (pages : List (Nat × PageContent)) : Option (Nat × Record) := newestOf (recordsOf pages)

/-- Is the record a CHECKPOINT? -/
def Record.isCheckpoint (r : Record) : Bool :=
  match r.body with
  | .checkpoint _ _ _ _ => true
  | _ => false

/-- The newest CHECKPOINT (R193). -/
def newestCheckpoint (pages : List (Nat × PageContent)) : Option RecordBody :=
  (newestOf ((recordsOf pages).filter fun q => q.2.isCheckpoint)).map fun q => q.2.body

/-- The dip id of a DIP record, 0 for another. -/
def Record.dipId (r : Record) : Nat :=
  match r.body with
  | .dip d => d.dipId
  | _ => 0

/-- The highest dip id among the DIP records, 0 when there is none (R193). -/
def highestDipId (pages : List (Nat × PageContent)) : Nat := (recordsOf pages).foldl (fun n q => max n q.2.dipId) 0

/-- The dip id after another: after 4,294,967,295 comes 1 (R82, R91). -/
def dipIdAfter (n : Nat) : Nat := if n < max32 then n + 1 else 1

/-- The write position set after the newest record within its section, or the section ahead looked at (R188, R193).
While the erase is due the write position stands at the newest record's page (R186). -/
def State.resumeAfter (page : Nat) (s : State) : State :=
  (s.setLog { s.log with writePos := some page }).advanceFrom page

/-! ## Area writes (R190, R191) -/

/-- The answer of a request given: the port sends it (R195, R197). -/
def State.answer (code : Byte) (st : Status) (p : AnswerPayload) (s : State) : State :=
  { s with port := { s.port with state := .answering, answer := some ⟨code, st, p⟩ } }

/-- The request code of the request in progress (R195). -/
def State.portCode (s : State) : Byte := (s.port.request.map requestCode).getD 0

/-- The log leaves FULL when the working lock table no longer holds its blocked section locked (R188). -/
def State.testBlocked (s : State) : State :=
  match s.log.state, s.log.blocked with
  | .full, some b =>
      if sectionLocked s.log.locks b.sect then s
      else
        let t := s.setLog { s.log with state := .opened, blocked := none }
        if b.eraseNeeded then t.eraseSection b.sect
        else
          match newestRecord t.flash.pages with
          | some q => t.resumeAfter q.1
          | none => t.eraseSection b.sect
  | _, _ => s

/-- An area write that matched (R191): the area holds it with its check (R208, R210), the working lock table or the
pending-configuration mark follows, the request is answered, and FULL is tested (R188, R205). -/
def State.areaMatched (target : AreaTarget) (s : State) : State :=
  let t := s.setLog { s.log with op := .none, areaWrite := none }
  match target with
  | .lockTable flags =>
      let changed := flagCount (flags ^^^ t.log.locks)
      let u : State := { t with
        log := { t.log with locks := flags }
        flash := { t.flash with locks := .of (lockBytes flags) } }
      (u.answer u.portCode .ok (.count changed)).testBlocked
  | .config bytes =>
      let u : State := { t with
        flash := { t.flash with config := .of bytes }
        roster := { t.roster with pendingConfig := true } }
      u.answer u.portCode .ok .empty

/-- The free contents of an area of some bytes: each byte, and the check (logs 6, 7). -/
def tornArea (draw size : Nat) : StoredArea :=
  ⟨(List.range size).map (Config.tornAreaByte draw), Config.tornAreaCheck draw⟩

/-- What an area reads as after a failed or torn write: free contents (R191, R194, logs 6, 7). -/
def State.tearArea (target : AreaTarget) (s : State) : State :=
  match target with
  | .lockTable _ => { s with flash := { s.flash with locks := tornArea s.draws 8 }, draws := s.draws + 1 }
  | .config _ => { s with flash := { s.flash with config := tornArea s.draws 48 }, draws := s.draws + 1 }

/-- An area write that did not match (R191): written again, or refused after the third. -/
def State.areaFailed (w : AreaWrite) (s : State) : State :=
  if w.failed + 1 < 3 then s.setLog { s.log with areaWrite := some { w with failed := w.failed + 1 } }
  else
    let t := (s.setLog { s.log with op := .none, areaWrite := none }).tearArea w.target
    t.answer t.portCode .refused (.reason .writeFailed)

/-- The end of an area write's read-back (R191); with none in flight nothing (log 3). -/
def State.endAreaWrite (isMatch : Bool) (s : State) : State :=
  match s.log.op, s.log.areaWrite with
  | .areaWrite, some w => if isMatch then s.areaMatched w.target else s.areaFailed w
  | _, _ => s

/-! ## The start-up scan (R193) -/

/-- Where the scan finds to write, with a newest record at `page` (R193, case 1). -/
def State.scanAfter (page : Nat) (s : State) : State :=
  if sectionLocked s.log.locks (sectionOf page) then
    (s.setLog { s.log with state := .full, writePos := none, blocked := some ⟨sectionOf page, false⟩ }).raise .logFull
  else (s.setLog { s.log with state := .opened }).resumeAfter page

/-- Where the scan finds to write with no valid record (R193, case 2). -/
def State.scanEmpty (s : State) : State :=
  if sectionLocked s.log.locks 0 then
    (s.setLog { s.log with state := .full, writePos := none, blocked := some ⟨0, true⟩ }).raise .logFull
  else if s.flash.pages.all fun q => sectionOf q.1 != 0 then
    s.setLog { s.log with state := .opened, writePos := some 0 }
  else s.setLog { s.log with state := .opened, writePos := some 0, eraseDue := some 0 }

/-- The scan's results given: the checkpoint, the next dip id and the next record sequence (R69, R91, R193). -/
def State.takeScan (s : State) : State :=
  let pages := s.flash.pages
  let t := s.loadCheckpoint (newestCheckpoint pages)
  let u : State := { t with jobs := { t.jobs with nextDipId := dipIdAfter (highestDipId pages) } }
  match newestRecord pages with
  | some q => (u.setLog { u.log with nextSeq := heldInc q.2.seq }).scanAfter q.1
  | none => (u.setLog { u.log with nextSeq := 1 }).scanEmpty

/-! ## A reset in the middle of an operation (R194, log 6) -/

/-- The page whose programming a reset abandoned (R194). -/
def State.tearPage (s : State) : State :=
  match s.log.writePos with
  | some p =>
      if Config.pageWasBegun s.draws then
        { s.setPages (putPage p .invalid s.flash.pages) with draws := s.draws + 1 }
      else { s with draws := s.draws + 1 }
  | none => s

/-- The section whose erase a reset abandoned (R194). -/
def State.tearSection (sect : Nat) (s : State) : State :=
  let offs := (List.range pagesPerSection).filter (Config.tornErasePageInvalid s.draws)
  { s.setPages (putInvalid sect offs s.flash.pages) with draws := s.draws + 1 }

/-- The array as a reset leaves it (R194). -/
def State.tearArray (s : State) : State :=
  match s.log.op with
  | .none => s
  | .program => s.tearPage
  | .erase sect => s.tearSection sect
  | .areaWrite =>
      match s.log.areaWrite with
      | some w => s.tearArea w.target
      | none => s

end Sys2Proof.Machine
end

