-- ==== Sys2Proof/Machine/Sequencer.lean ====
section
/-! DEFINITION. The Dip Sequencer's walk (05): starting segments, program faults, the end test, restoring a frozen
segment; and the tests a REPORT brings (R100, R142). -/

namespace Sys2Proof.Machine

/-! ## Program faults (R109, R110) -/

/-- A program fault (R110). The manual does not say what the slot and the segment index hold while the Sequencer is
STOPPED and during the lift that follows: the model keeps them until the close (log 39). -/
def State.programFault (f : ProgramFault) (s : State) : State :=
  let t := s.bankDrain
  let u := t.setSeq { t.seq with activity := .stopped, timer := .stopped, phase := none }
  (u.updateFlags (DipFlags.addFault f)).latch .program (.program f)

/-! ## HOIST (R99, R100, R101) -/

/-- The effective speed of a HOIST: FAST counts unless the resume mode mask names it (R96, R99, R131). -/
def State.effectiveSpeed (s : State) (m : Modes) (speed : Nat) : Nat :=
  if m.fast && !s.holds.mask.fast then speed else min speed s.conf.slowSpeed

/-- An own DIP or SHIFT entry in HELD has a span that holds the crane's current cell (R100). -/
def State.mayLower (s : State) : Bool :=
  match s.currentCell with
  | some c => s.claims.table.any fun e =>
      s.isOwn e && e.state == .held && (e.kind == .dip || e.kind == .shift) && e.span.holds c
  | none => false

/-- A target lies below the clear height. -/
def State.belowClear (s : State) (target : Int) : Bool := decide (target < s.conf.clear)

/-- The MOVEs of a HOIST issued to each hoist whose arrived mark is clear, at the effective speed, after the test of
R100. -/
def State.issueHoist (lead trail : Int) (speed : Nat) (m : Modes) (s : State) : State :=
  let wet := (!s.seq.arrivedLead && s.belowClear lead) || (!s.seq.arrivedTrail && s.belowClear trail)
  if wet && !s.mayLower then s.programFault .offSpan
  else
    let v := s.effectiveSpeed m speed
    let t := if s.seq.arrivedLead then s else s.postCommand .lead (.move lead v)
    if s.seq.arrivedTrail then t else t.postCommand .trail (.move trail v)

/-- A hook's capture armed at a clock reading (R145). -/
def Capture.arm (now : Time) (c : Capture) : Capture :=
  if c.armed then c
  else { c with armed := true, entry := if c.on && c.entry.isNone then some now else c.entry }

/-- The capture of both hooks armed (R101, R145). -/
def State.armCaptures (s : State) : State :=
  { s with time := { s.time with lead := s.time.lead.arm s.now, trail := s.time.trail.arm s.now } }

/-! ## The segment's phase -/

/-- The segment timer started with a length, and the segment in phase `timing` (R102 to R104). -/
def State.startTiming (length : Nat) (s : State) : State :=
  s.setSeq { s.seq with timer := .running (s.timer length), phase := some .timing }

/-- A MOVE is in flight on one of the three channels (R104, R132). -/
def State.anyMoveInFlight (s : State) : Bool :=
  s.drive.lead.moveInFlight || s.drive.trail.moveInFlight || s.drive.travel.moveInFlight

/-- A contact line is on (R103). -/
def State.anyContact (s : State) : Bool := s.time.lead.on || s.time.trail.on

/-! ## SHIFT (R105 to R107) -/

/-- The claim wait limit in ms (R72, R77). -/
def Job.waitLength (j : Job) : Nat := j.waitLimit * 1000

/-- The SHIFT claim asked for; the Claim Unit's answer places the SHIFT (R105). -/
def State.askShift (sp : Span) (j : Job) (s : State) : State :=
  match s.askClaim .shift sp j.draw j.tag with
  | (t, .requesting n) =>
      (t.updateHead fun k => { k with shiftClaim := some ⟨n, false⟩ }).setPhase .negotiating
  | (t, .held n) =>
      ((t.updateHead fun k => { k with shiftClaim := some ⟨n, true⟩ }).setClaimWait none).setPhase .held
  | (t, _) => t.setPhase .waiting

/-- The start of a SHIFT (R105). -/
def State.startShift (sp : Span) (s : State) : State :=
  if s.bothClear then
    match s.runningJob with
    | some j => (s.setClaimWait (some (s.timer j.waitLength))).askShift sp j
    | none => s.setPhase .waiting
  else s.programFault .shiftWet

/-- The centre of a span on the travel (R106). -/
def centreOf (cellLength : Nat) (sp : Span) : Int := ((sp.first + sp.last + 1) * cellLength / 2 : Nat)

/-- The travel MOVE of a SHIFT issued (R106). Its arrived mark is clear: an ARRIVED that was taken before it is not this
one's (R96, R107, log 16). -/
def State.issueTravel (sp : Span) (s : State) : State :=
  let t := s.postCommand .travel (.move (centreOf s.conf.cellLength sp) s.conf.travelSpeed)
  (t.setSeq { t.seq with arrivedTravel := false }).setPhase .travelling

/-- The travel has arrived: the old job claim is released, the SHIFT claim becomes the job claim, and the job takes
the new span (R107). -/
def State.endShift (sp : Span) (s : State) : State :=
  let t := match s.runningJob.bind (·.claim) with
    | some c => s.endClaim c.number
    | none => s
  let u := t.updateHead fun j => { j with claim := j.shiftClaim, shiftClaim := none, span := sp }
  (u.updateFlags fun f => { f with shifted := true }).setPhase .complete

/-! ## Starting a segment (R96, R98, R102 to R105) -/

/-- The start of a REPEAT (R98). -/
def State.startLoop (count endIndex : Nat) (s : State) : State :=
  if s.seq.loops.length < 4 then
    s.setSeq { s.seq with
      loops := ⟨s.seq.index.getD 0 + 1, endIndex, count⟩ :: s.seq.loops, phase := some .complete }
  else s.programFault .repeatOverflow

/-- The start of a DRAIN (R103). -/
def State.startDrain (time : Nat) (s : State) : State :=
  if s.anyContact then s.programFault .drainWet
  else if time = 0 then s.setPhase .complete
  else s.startTiming time

/-- The start of a segment's work, by its kind. -/
def State.startKind (g : Segment) (s : State) : State :=
  match g.kind with
  | .hoist lead trail speed =>
      ((if g.modes.sense then s.armCaptures else s).setPhase .moving).issueHoist lead trail speed g.modes
  | .dwell time => if time = 0 then s.setPhase .complete else s.startTiming time
  | .drain time => s.startDrain time
  | .weigh _ _ => s.setPhase .settling
  | .loop count endIndex => s.startLoop count endIndex
  | .shift sp => s.startShift sp

/-- A segment started: the resume mode mask emptied, the arrived marks cleared, its work begun (R96, R131). -/
def State.startSegment (g : Segment) (s : State) : State :=
  ((s.setHolds { s.holds with mask := .none }).clearMarks).startKind g

/-- The Sequencer set to start a segment. -/
def State.gotoSegment (index : Nat) (s : State) : State :=
  s.setSeq { s.seq with activity := .segment, index := some index, phase := some .starting, timer := .stopped }

/-- The program of a slot started at segment 0 (R82, R96). -/
def State.startProgram (slot : Nat) (s : State) : State :=
  (s.setSeq { s.seq with slot := some slot, loops := [], drainTotal := 0 }).gotoSegment 0

/-! ## The end test (R97) -/

/-- The end test at a completed index: the repeat stack after it, and the next segment it names, if any. -/
def endTest (index : Nat) : List Loop → List Loop × Option Nat
  | [] => ([], none)
  | l :: rest =>
      if l.endIndex = index then
        if 1 < l.remaining then ({ l with remaining := l.remaining - 1 } :: rest, some l.start)
        else endTest index rest
      else (l :: rest, none)

/-! ## Weights (R104) -/

/-- The sum of the loads of the two hoists' latest reports, held at 4,294,967,295 g (R104). -/
def State.weight (s : State) : Option Nat :=
  match s.drive.lead.report, s.drive.trail.report with
  | some a, some b => some (min (a.load + b.load) max32)
  | _, _ => none

/-- A weight recorded for a role; without one the role's weight stays (R83, R104). -/
def State.recordWeight (role : Role) (s : State) : State :=
  match s.weight with
  | none => s
  | some w =>
      match role with
      | .dry => s.updateHead fun j => { j with dry := some w }
      | .wet => s.updateHead fun j => { j with wet := some w }

/-! ## Restoring a frozen segment (R111, R129) -/

/-- The timer of the segment as a saved context keeps it (R129). -/
def SavedContext.timer (c : SavedContext) (t : SegTimer) : SegTimer :=
  match c.remaining with
  | some r => .suspended r
  | none => t

/-- What the Sequencer takes from the saved context of the entry removed last (R129). -/
def State.takeContext (c : SavedContext) (s : State) : State :=
  if c.activity = .segment ∧ c.isVoid = false then
    s.setSeq { s.seq with index := c.index, timer := c.timer s.seq.timer, loops := c.loops }
  else s

/-- A frozen segment carries on (R111). What a WEIGH, a SHIFT or a full set of marks brings follows as a reaction of
the same event (log 11). -/
def State.resumeSegment (g : Segment) (s : State) : State :=
  match g.kind, s.seq.phase with
  | .hoist lead trail speed, some .moving => s.issueHoist lead trail speed g.modes
  | .shift sp, some .travelling => if s.seq.arrivedTravel then s else s.issueTravel sp
  | _, _ => s.resumeTimer

/-- The Sequencer's context restored when the hold stack has emptied (R129). -/
def State.restoreContext (c : SavedContext) (s : State) : State :=
  match s.seq.activity with
  | .segment =>
      let t := s.takeContext c
      match t.segment with
      | some g => t.resumeSegment g
      | none => t
  | .lift => s.postLiftMoves
  | .weighAfterLift => s.resumeTimer
  | .stopped => s
  | .idle => s

/-! ## What a REPORT brings (R100, R142) -/

/-- The target of a MOVE in flight on a channel below the clear height, waiting or sent (R100). -/
def State.lowering (s : State) (c : ChannelState) : Bool :=
  c.inFlight.any (fun f => s.belowClear f.target) ||
    match c.waiting with
    | some (.move t _) => s.belowClear t
    | _ => false

/-- The test of a travel REPORT while a hoist is being lowered (R100, log 38). -/
def State.travelTest (s : State) : State :=
  if s.seq.activity == .segment && s.runningJob.isSome && (s.lowering s.drive.lead || s.lowering s.drive.trail) &&
      !s.mayLower then
    ((s.postCommand .lead .stop).postCommand .trail .stop).programFault .offSpan
  else s

/-- The progress of a hoist in percent (R142, log 19). -/
def progress (f : InFlight) (position : Int) : Nat :=
  match f.start with
  | some p =>
      let distance := (f.target - p).natAbs
      if distance = 0 then 100 else min 100 ((position - p).natAbs * 100 / distance)
  | none => min 100 (Config.progressWithoutStart f.target position)

/-- The progress of a channel that the sync check counts: a MOVE of the segment in flight and MOVING, none waiting, and
reported since it was sent (R142). -/
def ChannelState.syncProgress (c : ChannelState) : Option Nat :=
  match c.inFlight, c.report with
  | some f, some r =>
      if f.status = .moving ∧ f.isPresent ∧ f.reported ∧ !c.waiting.any DriveCommand.isMove then
        some (progress f r.position)
      else none
  | _, _ => none

/-- Two progress values differ by more than the tolerance (R142). -/
def apart (tolerance a b : Nat) : Bool := decide (tolerance < a - b) || decide (tolerance < b - a)

/-- The active segment is a HOIST with SYNC, which no mask takes away (R101, R131, R142), and has begun to move: its start
has taken the place of every MOVE asked for before it, so that the present MOVEs are the segment's. -/
def State.inSync (s : State) : Bool :=
  s.seq.activity == .segment && s.seq.phase == some .moving &&
    match s.segment with
    | some g =>
        match g.kind with
        | .hoist _ _ _ => g.modes.sync
        | _ => false
    | none => false

/-- The sync check at a hoist REPORT (R142). -/
def State.syncTest (s : State) : State :=
  if s.inSync then
    match s.drive.lead.syncProgress, s.drive.trail.syncProgress with
    | some a, some b => if apart s.conf.syncTolerance a b then s.latch .drive .sync else s
    | _, _ => s
  else s

end Sys2Proof.Machine
end

