-- ==== Sys2Proof/Machine/Jobs.lean ====
section
/-! DEFINITION. Job Control (04): the last result, the close, admission, the retest of a waiting job, the position check
and the start of RUNNING; and what Job Control and the Hold Controller do when a lift or a weighing ends (R126, R204). -/

namespace Sys2Proof.Machine

/-! ## The last result (R87) -/

/-- The last result record written (R87). -/
def State.writeResult (r : LastResult) (s : State) : State :=
  let lost := s.jobs.lastResult.any fun old => !old.read
  let t : State := { s with jobs := { s.jobs with lastResult := some r } }
  (if lost then t.raise .resultLost else t).raise .jobEnd

/-- The record of a job that ended before RUNNING (R79, R81, R88). -/
def earlyResult (tag : BitVec 16) (r : JobResult) (why : Option FailReason) : LastResult where
  tag := tag
  dipId := none
  result := r
  reason := why
  draw := 0
  flags := none
  read := false

/-- A job taken out of the list; the active one takes its claim wait timer and its buffer call with it (R74, R77). -/
def State.removeJob (j : Job) (s : State) : State :=
  let t : State := { s with jobs := { s.jobs with list := s.jobs.list.filter fun k => k.tag != j.tag } }
  if j.state = .queued then t
  else (t.setClaimWait none).setLog { t.log with call := none }

/-- A job that ends before RUNNING leaves the list (R79, R81, R88). -/
def State.endEarly (j : Job) (r : JobResult) (why : Option FailReason) (s : State) : State :=
  (s.removeJob j).writeResult (earlyResult j.tag r why)

/-! ## The close (R84, R85, R86, R147) -/

/-- A job's result: the first row of R84's table that applies. -/
def Job.result (j : Job) : JobResult :=
  if j.cancelLift then .cancelled
  else
    match j.abort with
    | some .program => .abortedProgram
    | some .bath => .abortedBath
    | none => if j.shiftTimedOut then .shiftTimeout else .done

/-- The draw of a job and the flag it gives (R85). -/
def drawOf (immersed : Bool) (dry wet : Option Nat) (expected : Nat) : Nat × (DipFlags → DipFlags) :=
  if immersed then
    match dry, wet with
    | some d, some w =>
        if w < d then (0, fun f => { f with weighAnomaly := true })
        else if 2 * expected < w - d then (w - d, fun f => { f with excess := true })
        else (w - d, id)
    | _, _ => (expected, fun f => { f with estimated := true })
  else (0, id)

/-- The load was immersed: a hook holds an entry time (R85, R146). -/
def State.immersed (s : State) : Bool := s.time.lead.entry.isSome || s.time.trail.entry.isSome

/-- The earlier of two times, either of which may be absent (R143, R147). -/
def earliest : Option Time → Option Time → Option Time
  | some a, some b => if timeLater a b then some b else some a
  | some a, none => some a
  | none, b => b

/-- The later of two times, either of which may be absent (R143, R147). -/
def latest : Option Time → Option Time → Option Time
  | some a, some b => if timeLater b a then some b else some a
  | some a, none => some a
  | none, b => b

/-- The immersion time (R147). -/
def immersionOf (lead trail : Capture) : Option Nat :=
  match earliest lead.entry trail.entry, latest lead.exit trail.exit with
  | some a, some b => if timeLater b a then some (b - a).toNat else none
  | _, _ => none

/-- The DIP record completed (R86 step 3, R147). -/
def State.completeRecord (s : State) (j : Job) (draw : Nat) (d : DipRecord) : DipRecord :=
  { d with
    endTime := s.now
    leadEntry := s.time.lead.entry
    leadExit := s.time.lead.exit
    trailEntry := s.time.trail.entry
    trailExit := s.time.trail.exit
    immersion := immersionOf s.time.lead s.time.trail
    drainTotal := s.seq.drainTotal
    dry := j.dry
    wet := j.wet
    draw := draw
    result := j.result }

/-- The Sequencer stopped with no segment active (R84, R96). -/
def State.stopSequencer (s : State) : State :=
  s.setSeq { s.seq with
    activity := .idle, slot := none, index := none, phase := none, timer := .stopped, loops := [], liftFor := none }

/-- The capture of both hooks disarmed, its times kept (R145). -/
def State.disarmCaptures (s : State) : State :=
  { s with time := { s.time with
      lead := { s.time.lead with armed := false }, trail := { s.time.trail with armed := false } } }

/-- The job leaves RUNNING for CLOSING (R84, R126, R145). -/
def State.enterClosing (s : State) : State :=
  ((s.updateHead fun j => { j with state := .closing }).stopSequencer.disarmCaptures).dropLiftPending

/-- Steps 1 and 2 of R86: the DRAW asked for, the claims ended. -/
def State.closeClaims (j : Job) (draw : Nat) (s : State) : State :=
  let t := if draw = 0 then s else s.askDraw ⟨draw, j.dipId.getD 0⟩
  let u := match j.claim with
    | some c => t.endClaim c.number
    | none => t
  match j.shiftClaim with
  | some c => u.endClaim c.number
  | none => u

/-- Steps 3 and 4 of R86: the record READY, the job removed, the last result written. -/
def State.closeRecord (j : Job) (draw : Nat) (s : State) : State :=
  match s.log.fillingRecord with
  | some (i, d) =>
      ((s.placeReady i (.dip (s.completeRecord j draw d))).removeJob j).writeResult
        ⟨j.tag, j.dipId, j.result, none, draw, some d.flags, false⟩
  | none => (s.removeJob j).writeResult ⟨j.tag, j.dipId, j.result, none, draw, none, false⟩

/-- The flag CANCEL_REQUESTED for a job that a cancel was asked of and that closes otherwise (R84). -/
def Job.closeFlags (j : Job) (f : DipFlags) : DipFlags :=
  { f with cancelRequested := f.cancelRequested || (j.cancelPending && !j.cancelLift) }

/-- The running job closed (R84 to R86). -/
def State.closeJob (s : State) : State :=
  match s.runningJob with
  | none => s.stopSequencer
  | some j =>
      let d := drawOf s.immersed j.dry j.wet j.draw
      let t := s.enterClosing.updateFlags fun f => j.closeFlags (d.2 f)
      (t.closeClaims j d.1).closeRecord j d.1

/-! ## Admission and waiting (R73 to R78) -/

/-- The station is quiet and sound (R73, R76): ACTIVE, SYNCED, no hold, no RECOVERY claim. -/
def State.quiet (s : State) : Bool :=
  s.roster.state == .active && s.noHolds && !s.recoveryStands && s.account.state == .synced

/-- The Claim Unit's answer places the job (R75). -/
def State.placeJob (a : IssueAnswer) (s : State) : State :=
  match a with
  | .blockedCells => s.updateHead fun j => { j with state := .waitCells }
  | .blockedBath => s.updateHead fun j => { j with state := .waitBath }
  | .requesting n => s.updateHead fun j => { j with state := .claiming, claim := some ⟨n, false⟩ }
  | .held n =>
      (s.updateHead fun j => { j with state := .claiming, claim := some ⟨n, true⟩ }).setClaimWait none
  | _ => s

/-- Step 2 of R75: the DIP claim asked for. -/
def State.askJobClaim (j : Job) (s : State) : State :=
  match s.askClaim .dip j.span j.draw j.tag with
  | (t, a) => t.placeJob a

/-- R75: the bath test, then the Claim Unit. -/
def State.settleJob (j : Job) (s : State) : State :=
  if s.bathTest j.draw 0 then s.askJobClaim j else s.updateHead fun k => { k with state := .waitBath }

/-- The head job leaves QUEUED: the buffer call, the claim wait timer, its first waiting state (R73 to R75). -/
def State.admitHead (s : State) : Option State :=
  match s.jobs.list with
  | j :: _ =>
      if j.state = .queued ∧ s.quiet = true ∧ (s.program j.slot).isEmpty = false then
        match s.log.freeBuffer with
        | some i =>
            some (((s.setLog { s.log with call := some i }).setClaimWait (some (s.timer j.waitLength))).settleJob j)
        | none => none
      else none
  | [] => none

/-- Would a test of the waiting job move it (R76)? Only a report of the Claim Unit or a change of the account brings a
test. In WAIT_BATH the bath test comes first. -/
def State.retestMoves (j : Job) (s : State) : Bool :=
  s.jobs.retestDue && s.quiet &&
    match j.state with
    | .waitBath => s.bathTest j.draw 0 && s.issueRefusal .dip j.span j.draw != some .blockedBath
    | .waitCells => s.issueRefusal .dip j.span j.draw != some .blockedCells
    | _ => false

/-- A waiting job tested again (R76). -/
def State.retest (s : State) : Option State :=
  match s.jobs.list with
  | j :: _ =>
      if s.retestMoves j then
        match s.issueRefusal .dip j.span j.draw with
        | none => some (s.askJobClaim j)
        | some .blockedCells => some (s.placeJob .blockedCells)
        | some .blockedBath => some (s.placeJob .blockedBath)
        | some _ => none
      else none
  | [] => none

/-! ## From HELD to RUNNING (R80 to R82) -/

/-- A DIP record as RUNNING begins (R82). -/
def Job.newRecord (j : Job) (dipId ticket : Nat) (now : Time) : DipRecord where
  dipId := dipId
  tag := j.tag
  slot := j.slot
  span := j.span
  ticket := ticket
  startTime := now
  endTime := 0
  leadEntry := none
  leadExit := none
  trailEntry := none
  trailExit := none
  immersion := none
  drainTotal := 0
  dry := none
  wet := none
  draw := 0
  flags := .none
  result := .done
  holds := []

/-- The capture of both hooks disarmed and cleared (R82, R145). -/
def Capture.clear (c : Capture) : Capture := { c with armed := false, entry := none, exit := none }

/-- The called buffer begins to fill and the call is lifted (R82 step 2). -/
def State.fillCalled (d : DipRecord) (s : State) : State :=
  match s.log.call with
  | some i => s.setLog { s.log.setBuffer i (.filling d) with call := none }
  | none => s

/-- The ticket value of a job's claim. -/
def State.claimTicket (s : State) (number : BitVec 16) : Nat :=
  match s.entryOf s.own number with
  | some e => e.ticket
  | none => 0

/-- RUNNING begins (R82). -/
def State.beginRunning (j : Job) (number : BitVec 16) (s : State) : State :=
  let id := s.jobs.nextDipId
  let t : State := { s with jobs := { s.jobs with nextDipId := dipIdAfter id } }
  let u := t.fillCalled (j.newRecord id (t.claimTicket number) t.now)
  let v : State := { u with
    time := { u.time with lead := u.time.lead.clear, trail := u.time.trail.clear }
    holds := { u.holds with recorded := 0 } }
  (v.updateHead fun k => { k with state := .running, dipId := some id, dry := none, wet := none }).startProgram j.slot

/-- The position check (R81). -/
def State.positionGood (s : State) (sp : Span) : Bool :=
  match s.currentCell with
  | some c => sp.holds c
  | none => false

/-- A job whose claim is HELD starts, or fails the position check, when no hold stands and no host lift is in
progress (R80, R81, R203). -/
def State.startJob (s : State) : Option State :=
  match s.jobs.list with
  | j :: _ =>
      match j.state, j.claim with
      | .claiming, some ⟨n, true⟩ =>
          if s.noHolds && s.seq.hostLift != .lifting then
            some (if s.positionGood j.span then s.beginRunning j n
              else (s.endClaim n).endEarly j .failed (some .position))
          else none
      | _, _ => none
  | [] => none

/-! ## Lifts and weighings that end (R83, R90, R104, R126, R204) -/

/-- The settle time of the automatic WET weighing (R104). -/
def weighSettle : Nat := 2000

/-- The automatic WET weighing begun; its timer starts when no MOVE is in flight (R104, R126). -/
def State.beginWeighing (s : State) : State :=
  s.setSeq { s.seq with activity := .weighAfterLift, phase := some .settling, liftFor := none }

/-- The weighing after a lift, or the close when the job holds no DRY weight (R90, R126). -/
def State.weighOrClose (s : State) : State :=
  if s.runningJob.any (·.dry.isSome) then s.beginWeighing else s.closeJob

/-- The lift of the LIFT entry on top is complete (R126). -/
def State.endHoldLift (s : State) : State :=
  match s.holds.stack with
  | e :: rest =>
      if e.cls.isFreeze then s
      else
        let t := s.setSeq { s.seq with liftFor := none }
        let u := ((t.setHolds { t.holds with stack := rest }).raise .holdChange).enterPending
        (if u.runningJob.any (·.cancelPending) then u.discardPause else u).weighOrClose
  | [] => s.weighOrClose

/-- The host lift is done (R204): the RECOVERY claim is tested (R29). -/
def State.endHostLift (s : State) : State :=
  (s.setSeq { s.seq with hostLift := .done, activity := .idle, liftFor := none, phase := none }).endRecovery

/-- A lift is complete: its requester is told (R112). -/
def State.endLift (s : State) : State :=
  match s.seq.liftFor with
  | some .hold => s.endHoldLift
  | some .cancel => s.weighOrClose
  | some .host => s.endHostLift
  | some .endLift => s.closeJob
  | none => s.closeJob

/-- The program has ended (R83): the close, or an end lift. -/
def State.endProgram (s : State) : State :=
  if s.bothClear then s.closeJob
  else (s.updateFlags fun f => { f with endLift := true }).beginLift .endLift false

/-- A segment has completed: the end test, then the next segment or the program's end (R97). -/
def State.completeSegment (g : Segment) (index : Nat) (s : State) : State :=
  let r := endTest index s.seq.loops
  let t := s.setSeq { s.seq with loops := r.1 }
  match r.2 with
  | some next => t.gotoSegment next
  | none => if g.last then t.endProgram else t.gotoSegment (index + 1)

end Sys2Proof.Machine
end

