-- ==== Sys2Proof/Machine/Settle.lean ====
section
/-! DEFINITION. The reactions of one event (log 11). Many rules say what a block does as soon as a condition holds: the
walk goes on, a claim becomes HELD, a job is admitted, a commit begins. `advance` is the first of them that can act,
in a fixed order, and `settle` lets them act until none can. An event's own effect comes first. -/

namespace Sys2Proof.Machine

/-! ## The Sequencer -/

/-- A SHIFT in WAITING asks again when the Claim Unit would issue (R105). -/
def State.reaskShift (sp : Span) (s : State) : Option State :=
  match s.runningJob with
  | some j => if (s.issueRefusal .shift sp j.draw).isNone then some (s.askShift sp j) else none
  | none => none

/-- What the active segment does next. But for a SHIFT that asks again, a freeze holds it (R111, R123). -/
def State.advanceSegment (g : Segment) (index : Nat) (s : State) : Option State :=
  match g.kind, s.seq.phase with
  | .shift sp, some .waiting => s.reaskShift sp
  | k, some p =>
      if s.holds.stack.isEmpty then
        match p, k with
        | .starting, _ => some (s.startSegment g)
        | .complete, _ => some (s.completeSegment g index)
        | .moving, _ =>
            if s.seq.arrivedLead && s.seq.arrivedTrail then some (s.setPhase .complete) else none
        | .settling, .weigh _ settle => if s.anyMoveInFlight then none else some (s.startTiming settle)
        | .held, .shift sp => some (s.issueTravel sp)
        | .travelling, .shift sp => if s.seq.arrivedTravel then some (s.endShift sp) else none
        | _, _ => none
      else none
  | _, none => none

/-- A lift that both hoists have carried out completes, unless a freeze stands over it (R112, R125). -/
def State.advanceLift (s : State) : Option State :=
  if s.seq.arrivedLead && s.seq.arrivedTrail && !s.frozen then some s.endLift else none

/-- The automatic WET weighing starts its timer when no MOVE is in flight, suspended while a FREEZE stands (R104,
R123). -/
def State.advanceWeighing (s : State) : Option State :=
  if s.seq.phase == some .settling && !s.anyMoveInFlight then
    some (if s.frozen then (s.startTiming weighSettle).suspendTimer else s.startTiming weighSettle)
  else none

/-- What the Dip Sequencer does next. -/
def State.advanceSequencer (s : State) : Option State :=
  match s.seq.activity with
  | .segment =>
      match s.segment, s.seq.index with
      | some g, some i => s.advanceSegment g i
      | _, _ => none
  | .lift => s.advanceLift
  | .weighAfterLift => s.advanceWeighing
  | .idle => none
  | .stopped => none

/-! ## All reactions -/

/-- The first answer of two. -/
def orNext (a : Option State) (b : Unit → Option State) : Option State :=
  match a with
  | some s => some s
  | none => b ()

/-- The first reaction that can act: the Sequencer's, a claim that becomes HELD (R18), a claimed job that starts
(R81), a waiting job's test (R76), the head job's admission (R73), a checkpoint's placing (R67), and the array's next
operation, an area write before an erase before a commit (R178). -/
def State.advanceOnce (s : State) : Option State :=
  orNext s.advanceSequencer fun _ =>
  orNext s.promote fun _ =>
  orNext s.startJob fun _ =>
  orNext s.retest fun _ =>
  orNext s.admitHead fun _ =>
  orNext s.placeCheckpoint fun _ =>
  orNext s.beginAreaWrite fun _ =>
  orNext s.beginErase fun _ => s.beginCommit

/-- The reactions, at most `fuel` of them. -/
def State.settleFor : Nat → State → State
  | 0, s => s
  | fuel + 1, s =>
      match s.advanceOnce with
      | some t => State.settleFor fuel t
      | none => s

/-- More reactions than one event can bring: four loops of 255 passes over 32 segments are fewer (R93, R98). -/
def settleBound : Nat := 281474976710656

/-- The reactions of an event, until none can act (log 11). -/
def State.settle (s : State) : State := State.settleFor settleBound s

/-- A waiting job's test is no longer due: the event is over (log 45). -/
def State.endRetest (s : State) : State := { s with jobs := { s.jobs with retestDue := false } }

/-- The end of an event: its reactions, then the free drive link served (R134, log 10). -/
def State.finish (s : State) : State := s.settle.serveDrives.endRetest

end Sys2Proof.Machine
end

