-- ==== Sys2Proof/Machine/Roster.lean ====
section
/-! DEFINITION. The Roster's operations (09): identity frames and beacons, the test of each dispatched frame, the live
set, isolation and joining; and the dispatch of the oldest held frame (R159). -/

namespace Sys2Proof.Machine

/-! ## The frames the Roster posts (R168, R173, R174, R175) -/

/-- What this station's identity frames carry of itself (R168). -/
def State.identityFields (s : State) : Identity :=
  ⟨(s.roster.identity.map (·.uniqueId)).getD 0, s.roster.digest, s.roster.state⟩

/-- The census: the numbers of the own entries (R24, R173), in the stored order of the table (log 54). -/
def State.census (s : State) : List (BitVec 16) := s.ownEntries.map (·.number)

/-- The other fields of a BEACON (R38, R173). -/
def State.beaconFields (s : State) : BeaconFields where
  ticketCounter := s.roster.ticketCounter
  census := s.census
  applied := s.account.applied
  ownSeq := s.account.ownNext - 1
  balance := s.account.balance
  account := s.account.state

/-- A BEACON posted (R173). -/
def State.postBeacon (s : State) : State := s.post .all (.beacon s.identityFields s.beaconFields)

/-- A claim as a STATE lists it (R175). -/
def ClaimEntry.listed (e : ClaimEntry) : ListedClaim := ⟨e.number, e.kind, e.ticket, e.span, e.reservation⟩

/-- A STATE posted (R174, R175), the own claims in the stored order of the table (log 54). -/
def State.postState (dest : Dest) (s : State) : State :=
  s.post dest (.state s.identityFields s.roster.ticketCounter s.account.state (s.ownEntries.map ClaimEntry.listed))

/-- A JOIN posted (R174). -/
def State.postJoin (s : State) : State := s.post .all (.join s.identityFields)

/-! ## Station states -/

/-- The station state changed. -/
def State.setStation (x : StationState) (s : State) : State := { s with roster := { s.roster with state := x } }

/-- Three beacon periods: the silence limit and the join window (R173, R174). -/
def State.threePeriods (s : State) : Nat := 3 * s.conf.beaconPeriod

/-- Entering LISTENING (R150, R174). -/
def State.enterListening (s : State) : State :=
  let t := s.setStation .listening
  let u : State := { t with
    roster := { t.roster with
      beaconTimer := some (t.timer t.conf.beaconPeriod), joinWindow := some (t.timer t.threePeriods) } }
  ((u.postState .all).postJoin).postBeacon

/-- The Link Interface at the entry to ISOLATED (R150): a frame being sent stays, all others go. -/
def Link.isolate (l : Link) : Link :=
  { l with queue := if l.sending = .sending then l.queue.take 1 else [], rxA := none, rxB := none }

/-- A peer record that is no longer live (R172). -/
def Peer.drop (p : Peer) : Peer := if p.live then { p with live := false, silence := none } else p

/-- Some peer is live. -/
def Roster.anyLive (r : Roster) : Bool := r.peers.toList.any (·.live)

/-- Entering ISOLATED (R4, R150, R172, R177). -/
def State.enterIsolated (why : IsolationReason) (s : State) : State :=
  let t := if s.roster.anyLive then s.raise .peerChange else s
  let u : State := { t with
    roster := { t.roster with
      state := .isolated
      isolation := some why
      beaconTimer := none
      joinWindow := none
      peers := t.roster.peers.map Peer.drop }
    link := t.link.isolate }
  u.setTable []

/-! ## The live set (R172) -/

/-- A live rank leaves the live set: its record, then the departure reported (R172, R25, R51). -/
def State.depart (r : Rank) (s : State) : State :=
  let p := s.roster.peers[r]
  (((s.setPeer r { p with live := false, silence := none }).raise .peerChange).departClaims r).departAccount r

/-- A rank excluded for its digest by an ACTIVE station (R171). -/
def State.exclude (r : Rank) (s : State) : State :=
  let p := s.roster.peers[r]
  let t := if p.excluded then s else (s.setPeer r { p with excluded := true }).raise .peerChange
  if p.live then t.depart r else t

/-! ## Taking a frame (R169 to R171) -/

/-- The identity fields of a frame, if it is an identity frame (R168). -/
def Payload.identity? : Payload → Option Identity
  | .beacon id _ => some id
  | .join id => some id
  | .state id _ _ _ => some id
  | _ => none

/-- The account state a BEACON or STATE carries (R168). -/
def Payload.account? : Payload → Option AccountState
  | .beacon _ f => some f.account
  | .state _ _ a _ => some a
  | _ => none

/-- The beacon fields of a BEACON (R168). -/
def Payload.beacon? : Payload → Option BeaconFields
  | .beacon _ f => some f
  | _ => none

/-- A station state that makes a rank live (R172). -/
def StationState.showsLive : StationState → Bool
  | .listening => true
  | .active => true
  | _ => false

/-- A rank clash (R170). -/
def State.clash (s : State) : State :=
  if s.roster.state = .listening then s.enterIsolated .rankClash
  else if s.roster.clashed then s
  else ({ s with roster := { s.roster with clashed := true } } : State).raise .peerChange

/-- A geometry mismatch (R171). -/
def State.mismatch (r : Rank) (s : State) : State :=
  if s.roster.state = .listening then s.enterIsolated .digestMismatch else s.exclude r

/-- The record of an origin as case 5 of R169 leaves it, before R172 is applied. -/
def Peer.hear (now : Time) (limit : Nat) (p : Payload) (r : Peer) : Peer :=
  let heard : Peer := { r with lastHeard := some now, silence := some ⟨now, limit⟩ }
  match p.identity? with
  | none => heard
  | some id =>
      { heard with
        uniqueId := some id.uniqueId
        state := some id.state
        account := p.account?.orElse fun _ => r.account
        beacon := p.beacon?.orElse fun _ => r.beacon
        excluded := false }

/-- The frame shows its origin LISTENING or ACTIVE (R172). -/
def Payload.showsLive (p : Payload) : Bool := p.identity?.any (·.state.showsLive)

/-- Case 5 of R169, with R172. -/
def State.hear (r : Rank) (p : Payload) (s : State) : State :=
  let q := (s.roster.peers[r]).hear s.now s.threePeriods p
  if p.showsLive && !q.live then (s.setPeer r { q with live := true }).raise .peerChange else s.setPeer r q

/-- The Roster's test of a dispatched frame (R169): the state after it, and whether the frame goes on. -/
def State.rosterTest (f : Frame) (s : State) : State × Bool :=
  let p := s.roster.peers[f.origin]
  if f.origin = s.own then (s.clash, false)
  else if f.payload.identity?.any (fun id => id.digest != s.roster.digest) then (s.mismatch f.origin, false)
  else if f.payload.identity?.any (fun id => p.live && p.uniqueId != some id.uniqueId) then (s, false)
  else if p.excluded && f.payload.identity?.isNone then (s, false)
  else (s.hear f.origin f.payload, true)

/-! ## Dispatch (R159) -/

/-- The receive buffer whose frame is the oldest. -/
def Link.oldest (l : Link) : Option (BufferId × Frame) :=
  match l.rxA, l.rxB with
  | some x, some y => if y.order < x.order then some (.b, y.frame) else some (.a, x.frame)
  | some x, none => some (.a, x.frame)
  | none, some y => some (.b, y.frame)
  | none, none => none

/-- A receive buffer made FREE (R158). -/
def State.freeRx (i : BufferId) (s : State) : State :=
  { s with link := match i with
      | .a => { s.link with rxA := none }
      | .b => { s.link with rxB := none } }

/-- A frame given to the Roster, and to the block `take` when the Roster lets it go on (R159). -/
def State.deliver (f : Frame) (take : Frame → State → State) (s : State) : State :=
  let r := s.rosterTest f
  if r.2 then take f r.1 else r.1

/-- The dispatch of the oldest held frame, when it is of the kind named; otherwise nothing is dispatched (R158, R159,
logs 3, 8). -/
def State.dispatch (k : FrameKind) (take : Frame → State → State) (s : State) : State :=
  match s.link.oldest with
  | some (i, f) => if s.joined && f.payload.kind == k then ((s.deliver f take).freeRx i).finish else s
  | none => s

/-! ## The end of the join (R176) -/

/-- The end of the join window in LISTENING (R176). -/
def State.endJoin (s : State) : State :=
  let t := s.settleAccount
  let u := if t.bothClear then t else t.issueRecovery
  u.setStation .active

end Sys2Proof.Machine
end

