-- ==== Sys2Proof/Machine/PowerCommands.lean ====
section
/-! DEFINITION. The commands of power and reset and of the input lines: POWER_ON, RESET_ASSERTED, RESET_RELEASED,
START_UP_SCAN_END, the STOP and PROTECT inputs, the contact lines. -/

namespace Sys2Proof.Machine

/-! ## Power and reset (R166, R167) -/

/-- Every block's volatile state at its reset value, the array as the reset finds it (R166, R194). The input lines are
not the station's own state, and the model's own fields stay (log 5). -/
def State.resetTo (cause : ResetCause) (s : State) : State :=
  let t := s.tearArray
  { State.reset with
    roster := .reset cause, pins := t.pins, flash := t.flash, draws := t.draws, pending := t.pending }

/-- POWER_ON (R166). -/
def execPowerOn (s : State) : Result := .next (s.resetTo .powerOn)

/-- The last reset cause a RESET input leaves: one asserted while the station is OFFLINE keeps the cause of the reset
in progress (R166). -/
def State.resetCause (s : State) : ResetCause := if s.isOn then .resetInput else s.roster.lastReset

/-- RESET_ASSERTED (R166). -/
def execResetAsserted (s : State) : Result := .next (s.resetTo s.resetCause)

/-- The Link Interface when the line turns out to be taken by another or broken: it is not idle, and a sending that it
still shows has stopped; in ISOLATED the frame leaves the queue (R150, R152, R163, log 9). -/
def State.lineTaken (s : State) : State :=
  { s with link := { s.link with
      sending := .idle
      lineIdle := false
      queue := if s.roster.state = .isolated then [] else s.link.queue } }

/-- A line break driven, for 1360 bit times, twice the longest legal frame (12, R163). -/
def State.driveBreak (s : State) : State :=
  let t := s.lineTaken
  { t with link := { t.link with breakDrive := some 1360 } }

/-- The STOP input found or becoming asserted: STOP latched, then the break driven (R116, R117). -/
def State.stopInput (s : State) : State := (s.latch .stop .stopInput).driveBreak

/-- What the entry to LOADING reads from the array: the identity, the configuration with its digest, the lock table
(R167, R179). -/
def State.readAreas (s : State) : State :=
  let cfg := configFrom s.flash.config
  { s with
    roster := { s.roster with
      identity := some (identityFrom s.flash.identity)
      config := cfg
      digest := if cfg.isSome then geometryDigest s.flash.config.bytes else 0 }
    log := { s.log with locks := locksFrom s.flash.locks } }

/-- The entry to LOADING (R132, R116, R166, R167). -/
def State.enterLoading (s : State) : State :=
  let t := (s.setStation .loading).postStops
  (if t.pins.stop then t.stopInput else t).readAreas

/-- RESET_RELEASED (R166). Only an OFFLINE station has a reset to end (log 3). -/
def execResetReleased (s : State) : Result :=
  if s.isOn then .next s else .next (s.enterLoading).finish

/-- The station state after the scan (R167): ISOLATED with an unsound identity or configuration, LISTENING
otherwise. -/
def State.leaveLoading (s : State) : State :=
  if !(s.roster.identity.any (·.checkGood)) then s.enterIsolated .identityInvalid
  else if s.roster.config.isNone then s.enterIsolated .configInvalid
  else s.enterListening

/-- START_UP_SCAN_END (R193). Only a scan in progress ends (log 3). -/
def execStartUpScanEnd (s : State) : Result :=
  if s.roster.state = .loading ∧ s.log.state = .scanning then .next (s.takeScan.leaveLoading).finish
  else .next s

/-! ## Input lines -/

/-- The level of the STOP input set. -/
def State.setStopPin (b : Bool) (s : State) : State := { s with pins := { s.pins with stop := b } }

/-- STOP_INPUT_ASSERTED (R116, R117): an assertion is a change from released to asserted (log 3). An OFFLINE station
finds the level at LOADING. -/
def execStopInputAsserted (s : State) : Result :=
  if s.pins.stop || !s.isOn then .next (s.setStopPin true)
  else .next ((s.setStopPin true).stopInput).finish

/-- STOP_INPUT_RELEASED (R116): the hold stack is not changed. -/
def execStopInputReleased (s : State) : Result := .next (s.setStopPin false)

/-- PROTECT_INPUT_CHANGE (R191). -/
def execProtectInputChange (asserted : Bool) (s : State) : Result :=
  .next { s with pins := { s.pins with protect := asserted } }

/-- A hook's capture. -/
def Timebase.get (t : Timebase) : Hook → Capture
  | .lead => t.lead
  | .trail => t.trail

/-- The Timebase with one hook's capture changed. -/
def Timebase.set (t : Timebase) (h : Hook) (c : Capture) : Timebase :=
  match h with
  | .lead => { t with lead := c }
  | .trail => { t with trail := c }

/-- An edge of a hook's contact line at a capture (R144, R146). -/
def Capture.edge (on : Bool) (since : Time) (c : Capture) : Capture :=
  if c.armed then
    if on then { c with on := true, entry := some (c.entry.getD since) }
    else { c with on := false, exit := some since }
  else { c with on := on }

/-- The active segment is a DRAIN (R103). -/
def State.draining (s : State) : Bool :=
  match s.activeKind with
  | some (.drain _) => true
  | _ => false

/-- A contact edge: the capture, then the watch of an active DRAIN (R103, R146). -/
def State.contactEdge (hook : Hook) (on : Bool) (since : Time) (s : State) : State :=
  let t : State := { s with time := s.time.set hook ((s.time.get hook).edge on since) }
  if on && t.draining then t.programFault .drainWet else t

/-- By the clock a line that changed at `since` has held its new level for 20 ms (R144). -/
def State.heldLevel (s : State) (since : Time) : Bool := !timeLater since s.now && decide (20 ≤ (s.now - since).toNat)

/-- CONTACT_EDGE (R144, R146). A line at its present level has no edge, nor has one that has not held its new level for
20 ms (log 28). -/
def execContactEdge (hook : Hook) (on : Bool) (since : Time) (s : State) : Result :=
  if s.isOn && (s.time.get hook).on != on && s.heldLevel since then .next (s.contactEdge hook on since).finish
  else .next s

end Sys2Proof.Machine
end

