-- ==== Sys2Proof/Machine/WireCommands.lean ====
section
/-! DEFINITION. The commands of the kettle link's wire: FRAME_END, IDLE_GAP_EXPIRY, LOST_ARBITRATION, FRAME_SENT and the
line break. -/

namespace Sys2Proof.Machine

/-- The destination names this station (R157). Without a configuration it has no rank (log 27). -/
def State.addressed (s : State) (d : Dest) : Bool :=
  match d with
  | .all => true
  | .rank r => s.roster.config.isSome && r == s.own

/-- A frame stored in a FREE receive buffer, A first, with its completion order; an overrun when both hold
(R158). -/
def State.storeFrame (f : Frame) (s : State) : State :=
  match s.link.rxA, s.link.rxB with
  | none, none => { s with link := { s.link with rxA := some ⟨f, 0⟩ } }
  | none, some y => { s with link := { s.link with rxA := some ⟨f, y.order + 1⟩ } }
  | some x, none => { s with link := { s.link with rxB := some ⟨f, x.order + 1⟩ } }
  | some _, some _ => s.countLink .overrun

/-- A frame that passed R156: its destination, its noise, its storing; an ISOLATED station discards it (R150, R157,
R158). -/
def State.acceptFrame (f : Frame) (noisy : Bool) (s : State) : State :=
  if s.addressed f.dest then
    let t := if noisy then s.countLink .noise else s
    if t.joined then t.storeFrame f else t
  else s

/-- A frame read whole or broken off, tested (R156). -/
def State.receive (w : WireFrame) (s : State) : State :=
  match testFrame w with
  | .framing => s.countLink .framing
  | .check => s.countLink .check
  | .good f => s.acceptFrame f w.noisy

/-- FRAME_END (R156). No frame is taken in OFFLINE and LOADING, nor one that was on the line before (R150). -/
def execFrameEnd (w : WireFrame) (s : State) : Result :=
  if !s.isOn then .next s
  else if s.roster.state = .loading ∨ w.fromStart = false then .next s.lineTaken
  else .next (s.lineTaken.receive w)

/-- IDLE_GAP_EXPIRY (R152): nothing is being sent on a line that has been idle for the gap. A line held dominant is
not idle (log 3). -/
def execIdleGapExpiry (s : State) : Result :=
  if s.isOn && !s.link.inBreak && s.link.breakDrive.isNone then
    let l := s.lineTaken.link
    .next { s with link := if s.joined then l.begin else { l with lineIdle := true } }
  else .next s

/-- LOST_ARBITRATION (R153): the head frame waits for the next idle line; in ISOLATED it leaves the queue (R150). -/
def execLostArbitration (s : State) : Result :=
  if s.link.sending = .sending then
    let l := { s.link with
      sending := .idle
      queue := if s.roster.state = .isolated then [] else s.link.queue }
    .next (({ s with link := l } : State).countLink .lostArbitration)
  else .next s

/-- FRAME_SENT (R154). -/
def execFrameSent (s : State) : Result :=
  if s.link.sending = .sending then
    .next { s with link := { s.link with sending := .idle, queue := s.link.queue.tail } }
  else .next s

/-- LINE_BREAK_DETECTED (R162, R116): the line is held dominant, so nothing is being sent on it (R152, log 9). -/
def execLineBreakDetected (s : State) : Result :=
  if !s.isOn || s.link.inBreak then .next s
  else
    let t := s.lineTaken
    .next (({ t with link := { t.link with inBreak := true } } : State).latch .stop .lineBreak).finish

/-- LINE_BREAK_RELEASED (R162, R164). -/
def execLineBreakReleased (s : State) : Result := .next { s with link := { s.link with inBreak := false } }

/-- BREAK_DRIVE_END (R163). -/
def execBreakDriveEnd (s : State) : Result := .next { s with link := { s.link with breakDrive := none } }

end Sys2Proof.Machine
end

