-- ==== Sys2Proof/Machine/DispatchCommands.lean ====
section
/-! DEFINITION. The twelve dispatch commands: the oldest held frame, given to the Roster and to the blocks of its kind
(R149, R159, R169). -/

namespace Sys2Proof.Machine

/-- The Claim Unit's and the Account Unit's part of each frame (R149). A VERDICT or a GAP sent to ALL is taken as one sent
to this station: R16 and R49 speak of one addressed to it, and R156 does not test the destination against the kind, so
this is the model's choice (log 51). -/
def takePayload (f : Frame) (s : State) : State :=
  match f.payload with
  | .verdict number v _ => s.takeVerdict f.origin number v (State.tellRefused number)
  | .release number => s.takeRelease f.origin number
  | .vacate r => if r = s.own then s else s.vacateRank r
  | .claim c => s.takeClaim f.origin c
  | .entry seq kind amount time dipId => s.takeEntry ⟨f.origin, seq, kind, amount, time, dipId⟩
  | .gap seq => s.takeGap f.origin seq
  | .gone seq => s.takeGone f.origin seq
  | .fetch number => s.takeFetch f.origin number
  | .snapshot number balance applied => s.takeSnapshot number balance applied
  | .beacon _ b => (s.censusRepair f.origin b).accountBeacon f.origin b
  | .join _ => s.postState (.rank f.origin)
  | .state _ tickets _ claims => s.takeState f.origin tickets claims

/-- CLAIM_TAKEN (R12). -/
def execClaimTaken (s : State) : Result := .next (s.dispatch .claim takePayload)

/-- VERDICT_TAKEN (R16). -/
def execVerdictTaken (s : State) : Result := .next (s.dispatch .verdict takePayload)

/-- RELEASE_TAKEN (R23). -/
def execReleaseTaken (s : State) : Result := .next (s.dispatch .release takePayload)

/-- VACATE_TAKEN (R28). -/
def execVacateTaken (s : State) : Result := .next (s.dispatch .vacate takePayload)

/-- ENTRY_TAKEN (R41). -/
def execEntryTaken (s : State) : Result := .next (s.dispatch .entry takePayload)

/-- GAP_TAKEN (R49). -/
def execGapTaken (s : State) : Result := .next (s.dispatch .gap takePayload)

/-- GONE_TAKEN (R50). -/
def execGoneTaken (s : State) : Result := .next (s.dispatch .gone takePayload)

/-- FETCH_TAKEN (R62). -/
def execFetchTaken (s : State) : Result := .next (s.dispatch .fetch takePayload)

/-- SNAPSHOT_TAKEN (R63). -/
def execSnapshotTaken (s : State) : Result := .next (s.dispatch .snapshot takePayload)

/-- BEACON_TAKEN (R38). -/
def execBeaconTaken (s : State) : Result := .next (s.dispatch .beacon takePayload)

/-- JOIN_TAKEN (R175). -/
def execJoinTaken (s : State) : Result := .next (s.dispatch .join takePayload)

/-- STATE_TAKEN (R27). -/
def execStateTaken (s : State) : Result := .next (s.dispatch .state takePayload)

end Sys2Proof.Machine
end

