-- ==== Sys2Proof/Machine/TimerCommands.lean ====
section
/-! DEFINITION. The expiries of the station's timers (R143). An expiry says that the clock has reached the timer's end
(log 2); a timer that does not run has none (log 3). -/

namespace Sys2Proof.Machine

/-- An expiry of a running timer: the clock at its end, then the owner's effect; with no such timer nothing
(R143, logs 2, 3). -/
def State.onExpiry (t : Option Timer) (effect : State → State) (s : State) : State :=
  match t with
  | some u => effect (s.reachExpiry u)
  | none => s

/-- The answer window of an own REQUESTING claim (R19). -/
def State.windowOf (s : State) (number : BitVec 16) : Option (ClaimEntry × Timer) :=
  match s.entryOf s.own number with
  | some e =>
      match e.state with
      | .requesting _ _ w => some (e, w)
      | _ => none
  | none => none

/-- ANSWER_WINDOW_EXPIRY (R19). -/
def execAnswerWindowExpiry (number : BitVec 16) (s : State) : Result :=
  match s.windowOf number with
  | some (e, w) => .next ((s.reachExpiry w).resendClaim e)
  | none => .next s

/-- FETCH_TIMER_EXPIRY (R61). -/
def execFetchTimerExpiry (s : State) : Result :=
  .next (s.onExpiry s.account.fetchTimer fun t => t.fetchFrom t.syncedPeer)

/-- A running job whose SHIFT ran out of time goes to CLOSING (R79, R108). -/
def State.timeOutShift (s : State) : State := (s.updateHead fun j => { j with shiftTimedOut := true }).closeJob

/-- The effect of the claim wait timer's expiry, by the job's state (R79, R108). -/
def State.claimWaitEnd (j : Job) (s : State) : State :=
  match j.state with
  | .waitCells => s.endEarly j .failed (some .claimTimeout)
  | .waitBath => s.endEarly j .failed (some .claimTimeout)
  | .claiming =>
      (match j.claim with
        | some c => s.endClaim c.number
        | none => s).endEarly j .failed (some .claimTimeout)
  | .running =>
      (match j.shiftClaim with
        | some c => (s.endClaim c.number).updateHead fun k => { k with shiftClaim := none }
        | none => s).timeOutShift
  | _ => s

/-- CLAIM_WAIT_EXPIRY (R79). -/
def execClaimWaitExpiry (s : State) : Result :=
  match s.jobs.claimWait, s.activeJob with
  | some w, some j => .next (((s.reachExpiry w).setClaimWait none).claimWaitEnd j).finish
  | _, _ => .next s

/-- The segment timer, when it runs. -/
def SegTimer.running? : SegTimer → Option Timer
  | .running t => some t
  | _ => none

/-- The segment timer stopped and its segment complete. -/
def State.endTiming (s : State) : State := s.setSeq { s.seq with timer := .stopped, phase := some .complete }

/-- DWELL_TIMER_EXPIRY (R102). -/
def execDwellTimerExpiry (s : State) : Result :=
  match s.activeKind, s.seq.timer with
  | some (.dwell _), .running t => .next (s.reachExpiry t).endTiming.finish
  | _, _ => .next s

/-- DRAIN_TIMER_EXPIRY (R103): the whole drain time is counted. -/
def execDrainTimerExpiry (s : State) : Result :=
  match s.activeKind, s.seq.timer with
  | some (.drain _), .running t => .next (s.reachExpiry t).bankDrain.endTiming.finish
  | _, _ => .next s

/-- The settle timer of a WEIGH has run out: the weight recorded, the segment complete (R104). -/
def State.endWeigh (role : Role) (s : State) : State := (s.recordWeight role).endTiming

/-- The settle timer of the automatic WET weighing has run out: the weight recorded, the job closed (R84, R104). -/
def State.endLiftWeigh (s : State) : State :=
  let t := s.recordWeight .wet
  (t.setSeq { t.seq with timer := .stopped, phase := none }).closeJob

/-- SETTLE_TIMER_EXPIRY (R104). -/
def execSettleTimerExpiry (s : State) : Result :=
  match s.seq.timer with
  | .running t =>
      match s.seq.activity, s.activeKind with
      | .weighAfterLift, _ => .next (s.reachExpiry t).endLiftWeigh.finish
      | .segment, some (.weigh role _) => .next ((s.reachExpiry t).endWeigh role).finish
      | _, _ => .next s
  | _ => .next s

/-- A rank's silence timer has run out: a live rank departs, another one's timer stops (R172, log 26). -/
def State.fallSilent (r : Rank) (s : State) : State :=
  if s.roster.peers[r].live then s.depart r else s.setPeer r { s.roster.peers[r] with silence := none }

/-- SILENCE_TIMER_EXPIRY (R172). -/
def execSilenceTimerExpiry (r : Rank) (s : State) : Result :=
  .next (s.onExpiry s.roster.peers[r].silence fun t => (t.fallSilent r).finish)

/-- The beacon timer started again and a BEACON posted (R173). -/
def State.beat (s : State) : State :=
  ({ s with roster := { s.roster with beaconTimer := some (s.timer s.conf.beaconPeriod) } } : State).postBeacon

/-- BEACON_TIMER_EXPIRY (R173). -/
def execBeaconTimerExpiry (s : State) : Result := .next (s.onExpiry s.roster.beaconTimer State.beat)

/-- The join window stopped. -/
def State.stopJoinWindow (s : State) : State := { s with roster := { s.roster with joinWindow := none } }

/-- JOIN_WINDOW_EXPIRY (R176): the window runs in LISTENING (log 3). -/
def execJoinWindowExpiry (s : State) : Result :=
  if s.roster.state = .listening then
    .next (s.onExpiry s.roster.joinWindow fun t => t.stopJoinWindow.endJoin.finish)
  else .next s

end Sys2Proof.Machine
end

