-- ==== Sys2Proof/Machine/DriveCommands.lean ====
section
/-! DEFINITION. The commands of the drive cabinet and of the move timers, and the ends of the array's operations. -/

namespace Sys2Proof.Machine

/-! ## Drive link (R134 to R142) -/

/-- DRIVE_SEND_END (R134). -/
def execDriveSendEnd (s : State) : Result :=
  .next (({ s with drive := { s.drive with busy := false } } : State).serveDrives)

/-- The command in flight ended and its timer stopped. -/
def ChannelState.endCommand (c : ChannelState) : ChannelState := { c with inFlight := none, timer := none }

/-- The MOVE in flight that an ARRIVED of a target ends: MOVING or STOPPING, with that target (R136). -/
def ChannelState.arriving (c : ChannelState) (target : Int) : Option InFlight :=
  c.inFlight.filter fun f => f.target == target && f.status != .timedOut

/-- A channel's arrived mark set (R96). -/
def Sequencer.mark (ch : Channel) (q : Sequencer) : Sequencer :=
  match ch with
  | .lead => { q with arrivedLead := true }
  | .trail => { q with arrivedTrail := true }
  | .travel => { q with arrivedTravel := true }

/-- The arrived mark of a present MOVE, one of the segment or the lift that the Sequencer is in (R99, R111, R125, R136);
with no segment and no lift there is none to set, and a MOVE of a lift that has ended sets none later (R204, log 16). -/
def State.markArrived (ch : Channel) (f : InFlight) (s : State) : State :=
  if f.isPresent && (s.seq.activity == .segment || s.seq.activity == .lift) then s.setSeq (s.seq.mark ch) else s

/-- ARRIVED (R136). -/
def execArrived (ch : Channel) (target : Int) (s : State) : Result :=
  match (s.channel ch).arriving target with
  | some f => .next ((s.setChannel ch (s.channel ch).endCommand).markArrived ch f).finish
  | none => .next s

/-- A stopping or given-up command, which a REPORT with moving clear ends (R137). -/
def ChannelState.stopping (c : ChannelState) : Bool := c.inFlight.any fun f => f.status != .moving

/-- A REPORT kept: the latest report, the mark that the channel has reported, and the end of a stopping command
(R137, R141, R142). -/
def ChannelState.takeReport (r : DriveReport) (c : ChannelState) : ChannelState :=
  let d : ChannelState :=
    { c with report := some r, inFlight := c.inFlight.map fun f => { f with reported := true } }
  if !r.moving && c.stopping then d.endCommand else d

/-- What a REPORT is handed on to (R141). -/
def State.testReport (ch : Channel) (s : State) : State :=
  match ch with
  | .travel => s.travelTest
  | .lead => s.syncTest
  | .trail => s.syncTest

/-- REPORT (R141). -/
def execReport (ch : Channel) (position : Int) (load : Nat) (moving : Bool) (s : State) : Result :=
  if s.isOn then
    .next (((s.setChannel ch ((s.channel ch).takeReport ⟨position, load, moving, s.now⟩)).testReport ch).finish)
  else .next s

/-- A FAULT at its channel (R139). -/
def ChannelState.takeFault (code : Byte) (c : ChannelState) : ChannelState :=
  { c.endCommand with ready := false, faultCode := some code }

/-- FAULT (R139). -/
def execFault (ch : Channel) (code : Byte) (s : State) : Result :=
  if s.isOn then
    .next (((s.setChannel ch ((s.channel ch).takeFault code)).latch .drive (.fault ch code)).finish)
  else .next s

/-- READY (R139). -/
def execReady (ch : Channel) (s : State) : Result :=
  if s.isOn then .next (s.setChannel ch { s.channel ch with ready := true }) else .next s

/-- DRIVE_EVENT_DISCARDED (R140). -/
def execDriveEventDiscarded (s : State) : Result :=
  if s.isOn then .next { s with drive := { s.drive with errors := satInc s.drive.errors } } else .next s

/-- The move timer that runs on a channel with a command in flight of one of these statuses. -/
def ChannelState.timerOf (c : ChannelState) (p : FlightStatus → Bool) : Option Timer :=
  if c.inFlight.any (fun f => p f.status) then c.timer else none

/-- A command given up (R138). -/
def ChannelState.giveUp (c : ChannelState) : ChannelState :=
  { c with timer := none, inFlight := c.inFlight.map fun f => { f with status := .timedOut } }

/-- The move timer of a MOVING command has run out (R138). -/
def State.timeOutMove (ch : Channel) (s : State) : State :=
  ((s.setChannel ch (s.channel ch).giveUp).latch .drive (.timeout ch)).postCommand ch .stop

/-- MOVE_TIMER_EXPIRY (R138). -/
def execMoveTimerExpiry (ch : Channel) (s : State) : Result :=
  .next (s.onExpiry ((s.channel ch).timerOf (· == .moving)) fun t => (t.timeOutMove ch).finish)

/-- The stop allowance has run out (R137): DRIVE is latched for a STOPPING command, and the command ends. -/
def State.endAllowance (ch : Channel) (s : State) : State :=
  let t := if (s.channel ch).inFlight.any (·.status == .stopping) then s.latch .drive (.timeout ch) else s
  t.setChannel ch (t.channel ch).endCommand

/-- STOP_ALLOWANCE_EXPIRY (R137). -/
def execStopAllowanceExpiry (ch : Channel) (s : State) : Result :=
  .next (s.onExpiry ((s.channel ch).timerOf (· != .moving)) fun t => (t.endAllowance ch).finish)

/-! ## Ends of the array's operations -/

/-- COMMIT_END (R185). -/
def execCommitEnd (isMatch : Bool) (s : State) : Result := .next (s.endCommit isMatch).finish

/-- ERASE_END (R187). -/
def execEraseEnd (notEmpty : List Nat) (s : State) : Result := .next (s.endErase notEmpty).finish

/-- AREA_WRITE_END (R191). -/
def execAreaWriteEnd (isMatch : Bool) (s : State) : Result := .next (s.endAreaWrite isMatch).finish

end Sys2Proof.Machine
end

