-- ==== Sys2Proof/Machine/PortCommands.lean ====
section
/-! DEFINITION. The controller port: the exchange (R195 to R198), STATUS, ACKNOWLEDGE and the reads. -/

namespace Sys2Proof.Machine

/-! ## The exchange -/

/-- The port is WORKING or ANSWERING: a request that starts now is discarded and counted (R198). -/
def State.portBusy (s : State) : Bool := s.port.state == .working || s.port.state == .answering

/-- A request discarded whole (R198). -/
def State.ignoreRequest (s : State) : State := { s with port := { s.port with ignored := satInc s.port.ignored } }

/-- A spoiled request discarded without an answer (R196). -/
def State.spoilRequest (s : State) : State :=
  { s with port := { s.port with state := .idle, request := none, frameErrors := satInc s.port.frameErrors } }

/-- The end of a spoiled request: nothing in OFFLINE, ignored while another is worked or answered (R195, R196, R198,
log 24). -/
def State.badRequest (s : State) : State :=
  if !s.isOn then s else if s.portBusy then s.ignoreRequest else s.spoilRequest

/-- REQUEST_PAUSE_TIMEOUT (R196). -/
def execRequestPauseTimeout (s : State) : Result := .next s.badRequest

/-- REQUEST_CHECK_FAILED (R196). -/
def execRequestCheckFailed (s : State) : Result := .next s.badRequest

/-- REQUEST_IGNORED (R198). Only a port that is WORKING or ANSWERING ignores a request (log 3). -/
def execRequestIgnored (s : State) : Result := .next (if s.portBusy then s.ignoreRequest else s)

/-- A sound request: taken by a free port and worked by its owner, with the reactions of its event; ignored by a busy
one; nothing in OFFLINE (R195, R196, R198, log 24). -/
def State.request (i : Instr) (work : State → State) (s : State) : Result :=
  if !s.isOn then .next s
  else if s.portBusy then .next s.ignoreRequest
  else
    let t : State := { s with port := { s.port with state := .working, request := some i } }
    .next (work t).finish

/-- The answer of the request in progress. -/
def State.reply (st : Status) (p : AnswerPayload) (s : State) : State := s.answer s.portCode st p

/-- OK with a payload (R197). -/
def State.ok (p : AnswerPayload) (s : State) : State := s.reply .ok p

/-- BUSY (R197). -/
def State.busy (s : State) : State := s.reply .busy .empty

/-- INVALID without a payload (R197). -/
def State.invalid (s : State) : State := s.reply .invalid .empty

/-- REFUSED with a reason (R197). -/
def State.refuse (r : RefusedReason) (s : State) : State := s.reply .refused (.reason r)

/-- PROTECTED (R197). -/
def State.shielded (s : State) : State := s.reply .isProtected .empty

/-- NOT_ACTIVE with the station state (R197). -/
def State.notActive (s : State) : State := s.reply .notActive (.stationState s.roster.state)

/-- UNKNOWN_REQUEST (R196): INVALID without a payload. -/
def execUnknownRequest (code : Byte) (s : State) : Result := s.request (.unknownRequest code) State.invalid

/-- ANSWER_SENT (R195). Only an answer being sent ends (log 3). -/
def execAnswerSent (s : State) : Result :=
  if s.port.state = .answering then
    .next { s with port := { s.port with state := .idle, request := none, answer := none } }
  else .next s

/-! ## STATUS (R200) -/

/-- A buffer's state. -/
def Buffer.shown : Buffer → BufferState
  | .free => .free
  | .filling _ => .filling
  | .ready _ => .ready
  | .committing _ => .committing

/-- The headroom: balance − committed amount − floor; absent without a configuration (R54). -/
def State.headroom (s : State) : Option Int :=
  s.roster.config.map fun c => (s.account.balance : Int) - s.account.committed - c.floor

/-- The station as STATUS shows it (R200). -/
def State.view (s : State) : StatusView where
  state := s.roster.state
  isolation := s.roster.isolation
  lastReset := s.roster.lastReset
  ownRank := s.roster.config.map (·.ownRank)
  clashed := s.roster.clashed
  clock := s.now
  flags := s.port.flags
  peers := s.roster.peers
  stack := s.holds.stack
  pending := s.holds.pending
  mask := s.holds.mask
  recorded := s.holds.recorded
  lead := s.drive.lead
  trail := s.drive.trail
  travel := s.drive.travel
  driveErrors := s.drive.errors
  contactLead := s.time.lead.on
  contactTrail := s.time.trail.on
  hostLift := s.seq.hostLift
  account := s.account.state
  balance := s.account.balance
  committed := s.account.committed
  headroom := s.headroom
  head := s.jobs.list.head?.map fun j => (j.tag, j.state)
  lastResult := s.jobs.lastResult
  logState := s.log.state
  writePos := s.log.writePos
  blocked := s.log.blocked
  nextSeq := s.log.nextSeq
  failures := s.log.failures
  bufA := s.log.bufA.shown
  bufB := s.log.bufB.shown
  framing := s.link.framing
  check := s.link.check
  noise := s.link.noise
  overrun := s.link.overrun
  postDrop := s.link.postDrop
  lostArbitration := s.link.lostArbitration
  queueLength := s.link.queue.length
  inBreak := s.link.inBreak
  ignored := s.port.ignored
  frameErrors := s.port.frameErrors

/-- The last result record marked read (R87). -/
def State.markRead (s : State) : State :=
  { s with jobs := { s.jobs with lastResult := s.jobs.lastResult.map fun r => { r with read := true } } }

/-- The reported-flags snapshot taken (R200). -/
def State.takeFlags (s : State) : State := { s with port := { s.port with snapshot := s.port.flags } }

/-- STATUS (R200). -/
def execStatus (s : State) : Result := s.request .status fun t => (t.ok (.status t.view)).takeFlags.markRead

/-! ## ACKNOWLEDGE (R201) -/

/-- The flags an ACKNOWLEDGE finds named, set and in the snapshot. -/
def ControllerPort.reported (p : ControllerPort) (named : FlagSet) : FlagSet := (named.inter p.flags).inter p.snapshot

/-- Those it clears: STALE_PRESENT stays while a STALE entry stands (R26, R199). -/
def State.clearable (s : State) (named : FlagSet) : FlagSet :=
  let r := s.port.reported named
  { r with stalePresent := r.stalePresent && !s.claims.table.any ClaimEntry.isStale }

/-- The six counters cleared (R161). -/
def Link.clearCounters (l : Link) : Link :=
  { l with framing := 0, check := 0, noise := 0, overrun := 0, postDrop := 0, lostArbitration := 0 }

/-- The work of ACKNOWLEDGE (R26, R161, R201): what it clears leaves the snapshot too, and STALE_PRESENT is touched in
neither while a STALE entry stands (log 33). -/
def State.acknowledge (named : FlagSet) (s : State) : State :=
  let c := s.clearable named
  let t : State := { s with
    port := { s.port with
      flags := s.port.flags.without c, snapshot := s.port.snapshot.without c }
    link := if c.linkError then s.link.clearCounters else s.link }
  t.ok (.acknowledged c t.port.flags)

/-- ACKNOWLEDGE (R201). -/
def execAcknowledge (mask : BitVec 16) (s : State) : Result :=
  s.request (.acknowledge mask) (State.acknowledge (FlagSet.ofMask mask))

/-! ## The reads (R202, R92) -/

/-- The account as READ_ACCOUNT shows it (R202). -/
def State.accountView (s : State) : AccountView where
  balance := s.account.balance
  committed := s.account.committed
  floor := s.roster.config.map (·.floor)
  applied := s.account.applied
  ownNext := s.account.ownNext
  state := s.account.state
  retainedLength := s.account.retained.length
  retainedOldest := s.account.retained.head?.map (·.seq)
  retainedNewest := s.account.retained.getLast?.map (·.seq)
  holding := s.account.holding
  gaps := s.account.gaps
  deferredDraw := s.account.deferredDraw
  clampCount := s.account.clampCount
  sinceCheckpoint := s.account.sinceCheckpoint
  headroom := s.headroom
  rebaseNumber := s.account.rebaseNumber
  fetchTarget := s.account.fetchTarget
  fetchTimer := s.account.fetchTimer
  checkpointPending := s.account.checkpointPending

/-- READ_ACCOUNT (R202). -/
def execReadAccount (s : State) : Result := s.request .readAccount fun t => t.ok (.account t.accountView)

/-- READ_TABLE (R202). The entries, which R202 returns in no fixed order, go in the stored order of the table (log 23). -/
def execReadTable (s : State) : Result :=
  s.request .readTable fun t => t.ok (.table t.claims.table t.roster.ticketCounter t.claims.ownCounter)

/-- A job with the claim wait deadline and the buffer call, which only the active job has (R70). -/
def State.jobView (s : State) (j : Job) : JobView :=
  if j.state = .queued then ⟨j, none, none⟩
  else ⟨j, s.jobs.claimWait.map fun w => w.start + BitVec.ofNat 32 w.length, s.log.call⟩

/-- READ_JOB_LIST (R70, R202): the last result record it carries is marked read. -/
def execReadJobList (s : State) : Result :=
  s.request .readJobList fun t =>
    (t.ok (.jobs (t.jobs.list.map t.jobView) (t.jobs.claimWait.map fun w => w.remaining t.now)
      t.jobs.lastResult)).markRead

/-- What READ_IDENTITY shows (R202). -/
def State.identityView (s : State) : IdentityView where
  identity := s.roster.identity
  ownRank := s.roster.config.map (·.ownRank)
  reach := s.roster.config.bind fun c => c.reach[c.ownRank]
  digest := s.roster.config.map fun _ => s.roster.digest
  config := s.roster.config
  pendingConfig := s.roster.pendingConfig

/-- READ_IDENTITY (R202). -/
def execReadIdentity (s : State) : Result := s.request .readIdentity fun t => t.ok (.identity t.identityView)

/-- READ_PROGRAM (R92). -/
def execReadProgram (slot : Nat) (s : State) : Result :=
  s.request (.readProgram slot) fun t => if slot < 8 then t.ok (.program (t.program slot)) else t.invalid

/-- The pages READ_LOG names, page 4095 followed by page 0 (R192). -/
def State.readPages (s : State) (page count : Nat) : List PageView :=
  (List.range count).map fun i =>
    let p := (page + i) % (pagesPerSection * sectionCount)
    ⟨p, readPage s.flash.pages p⟩

/-- The tests and the answer of READ_LOG (R192). -/
def State.readLog (page count : Nat) (s : State) : State :=
  if 4095 < page ∨ count = 0 ∨ 8 < count then s.invalid
  else if s.log.state = .scanning then s.busy
  else s.ok (.log (s.readPages page count) s.log.locks s.log.writePos s.log.state)

/-- READ_LOG (R192). -/
def execReadLog (page count : Nat) (s : State) : Result := s.request (.readLog page count) (State.readLog page count)

end Sys2Proof.Machine
end

