-- ==== Sys2Proof/Machine/RequestCommands.lean ====
section
/-! DEFINITION. The host's requests that act on jobs, programs, the account, the holds, the claims, the log and the
configuration. Each tests in the order of its rule; the first test that fails gives the answer (R197). -/

namespace Sys2Proof.Machine

/-! ## Jobs (R72, R88) -/

/-- The operands of SUBMIT_JOB lie in their ranges (R72). -/
def State.submitRanges (s : State) (slot : Nat) (sp : Span) (draw limit : Nat) : Bool :=
  decide (slot < 8) && sp.valid s.conf.cells && decide (draw ≤ maxMass) && decide (1 ≤ limit) && decide (limit ≤ 3600)

/-- A job as it joins the list (R72). -/
def newJob (tag : BitVec 16) (slot : Nat) (sp : Span) (draw limit : Nat) : Job where
  tag := tag
  slot := slot
  span := sp
  draw := draw
  waitLimit := limit
  state := .queued
  claim := none
  shiftClaim := none
  dipId := none
  abort := none
  cancelPending := false
  shiftTimedOut := false
  dry := none
  wet := none
  cancelLift := false

/-- The work of SUBMIT_JOB (R72). -/
def State.submit (tag : BitVec 16) (slot : Nat) (sp : Span) (draw limit : Nat) (s : State) : State :=
  if s.roster.state ≠ .active then s.notActive
  else if !s.submitRanges slot sp draw limit then s.invalid
  else if !withinReach (s.reachOf s.own) sp then s.refuse .outOfReach
  else if (s.program slot).isEmpty then s.refuse .noProgram
  else if s.jobs.list.any (·.tag == tag) then s.refuse .duplicateTag
  else if 4 ≤ s.jobs.list.length then s.busy
  else
    let t : State := { s with jobs := { s.jobs with list := s.jobs.list ++ [newJob tag slot sp draw limit] } }
    t.ok (.place t.jobs.list.length)

/-- SUBMIT_JOB (R72). -/
def execSubmitJob (tag : BitVec 16) (slot first last draw limit : Nat) (s : State) : Result :=
  s.request (.submitJob tag slot first last draw limit) (State.submit tag slot ⟨first, last⟩ draw limit)

/-- The effect of CANCEL_JOB on a job, by its state (R88). -/
def State.cancel (j : Job) (s : State) : State :=
  match j.state with
  | .queued => (s.endEarly j .cancelled none).ok .empty
  | .waitCells => (s.endEarly j .cancelled none).ok .empty
  | .waitBath => (s.endEarly j .cancelled none).ok .empty
  | .claiming =>
      ((match j.claim with
        | some c => s.endClaim c.number
        | none => s).endEarly j .cancelled none).ok .empty
  | .running =>
      if j.cancelPending then s.ok .empty
      else (((s.updateHead fun k => { k with cancelPending := true }).testCancel).ok .empty)
  | .closing => s.busy

/-- CANCEL_JOB (R88). -/
def execCancelJob (tag : BitVec 16) (s : State) : Result :=
  s.request (.cancelJob tag) fun t =>
    match t.jobs.list.find? (·.tag == tag) with
    | some j => t.cancel j
    | none => t.refuse .unknownTag

/-! ## Programs (R94) -/

/-- The work of LOAD_PROGRAM (R94). -/
def State.load (slot : Nat) (segs : List RawSegment) (s : State) : State :=
  if h : slot < 8 then
    if 32 < segs.length then s.invalid
    else if s.jobs.list.any (·.slot == slot) then s.busy
    else
      match if segs.isEmpty then none else validate s.roster.config segs with
      | some (index, why) => s.reply .invalid (.segmentFailure index why)
      | none =>
          let p := storedProgram segs
          (({ s with programs := ⟨s.programs.slots.set slot p⟩ } : State).ok (.count p.length))
  else s.invalid

/-- LOAD_PROGRAM (R94). -/
def execLoadProgram (slot : Nat) (segs : List RawSegment) (s : State) : Result :=
  s.request (.loadProgram slot segs) (State.load slot segs)

/-! ## The account (R35, R68) -/

/-- A host entry: its tests, its origination, its ENTRY record placed before a pending checkpoint, and the answer
(R35). `inRange` is the test of the mass. -/
def State.hostEntry (kind : EntryKind) (amount : Int) (inRange : Bool) (s : State) : State :=
  if s.roster.state ≠ .active then s.notActive
  else if !inRange then s.invalid
  else if s.account.state = .rebasing then s.busy
  else if s.log.state = .full ∨ s.log.state = .fault then s.busy
  else
    match s.log.freeBuffer with
    | none => s.busy
    | some i =>
        let seq := s.account.ownNext
        let t := (s.originate kind amount none).placeReady i (.entry seq kind amount)
        t.ok (.originated seq t.account.balance)

/-- A mass of 1 to 16,000,000 g (R35). -/
def massInRange (mass : Nat) : Bool := decide (1 ≤ mass) && decide (mass ≤ maxMass)

/-- CHARGE (R35). -/
def execCharge (mass : Nat) (s : State) : Result :=
  s.request (.charge mass) (State.hostEntry .charge mass (massInRange mass))

/-- SKIM (R35): a negative amount. -/
def execSkim (mass : Nat) (s : State) : Result :=
  s.request (.skim mass) (State.hostEntry .skim (-(mass : Int)) (massInRange mass))

/-- ADJUST (R35): a signed correction. -/
def execAdjust (mass : Int) (s : State) : Result :=
  s.request (.adjust mass) (State.hostEntry .adjust mass (massInRange mass.natAbs))

/-- The work of CHECKPOINT (R66, R67, R68). -/
def State.hostCheckpoint (s : State) : State :=
  if s.roster.state ≠ .active then s.notActive
  else if !s.applying then s.busy
  else
    match s.askCheckpoint.placeCheckpoint with
    | some t => t.ok (.checkpointMark true)
    | none => s.askCheckpoint.ok (.checkpointMark false)

/-- CHECKPOINT (R68). -/
def execCheckpoint (s : State) : Result := s.request .checkpoint State.hostCheckpoint

/-! ## Holds (R116, R120, R127, R128) -/

/-- PAUSE's disposition (R120). -/
def State.pauseDisposition (s : State) : Disposition :=
  if s.standing .pause then .absorbed else if s.holds.stack.isEmpty then .entered else .pending

/-- PAUSE (R120). -/
def execPause (s : State) : Result :=
  s.request .pause fun t => (t.latch .pause .host).ok (.disposition t.pauseDisposition)

/-- Why a RESUME of the top entry is refused (R127). -/
def State.resumeRefusal (s : State) (e : HoldEntry) : Option RefusedReason :=
  match e.cls with
  | .program => some .lifting
  | .bath => some .lifting
  | .stop => if s.pins.stop then some .stopAsserted else none
  | .drive => if s.drive.lead.ready && s.drive.trail.ready && s.drive.travel.ready then none else some .driveNotReady
  | _ => none

/-- Step 5 of R128: a FREEZE on top keeps the drives stopped; a LIFT on top is issued again (R125), unless it has just
entered and issued it; an empty stack restores the context (R129). `before` is the stack before the entry test. -/
def State.goOn (before : List HoldEntry) (c : SavedContext) (s : State) : State :=
  match s.holds.stack with
  | [] => s.restoreContext c
  | e :: _ => if e.cls.isFreeze || s.holds.stack != before then s else s.postLiftMoves

/-- The top entry removed by RESUME (R90, R128). -/
def State.resume (e : HoldEntry) (rest : List HoldEntry) (s : State) : State :=
  let t := (s.setHolds { s.holds with stack := rest, mask := s.holds.mask.addMask e.cls }).raise .holdChange
  let u := t.enterPending
  if u.cancelReady then u.carryOutCancel
  else if u.endLiftPaused then u.freeEndLift
  else u.goOn rest e.context

/-- The class on top of the hold stack. -/
def State.topClass (s : State) : Option HoldClass := s.holds.stack.head?.map (·.cls)

/-- The work of RESUME (R127, R128). The answer names the top after the reactions of the removal (log 41). -/
def State.hostResume (s : State) : State :=
  match s.holds.stack with
  | [] => s.refuse .noHold
  | e :: rest =>
      match s.resumeRefusal e with
      | some r => s.refuse r
      | none =>
          let t := (s.resume e rest).settle
          t.ok (.resumed e.cls t.topClass)

/-- RESUME (R127). -/
def execResume (s : State) : Result := s.request .resume State.hostResume

/-- ALL_STOP (R116, R117). -/
def execAllStop (s : State) : Result :=
  s.request .allStop fun t => ((t.latch .stop .allStop).driveBreak).ok .empty

/-! ## LIFT_CLEAR (R203) -/

/-- The lift move begun for the host (R112, R203). -/
def State.beginHostLift (s : State) : State :=
  let t := s.clearMarks
  (t.setSeq { t.seq with activity := .lift, liftFor := some .host, hostLift := .lifting }).postLiftMoves

/-- The tests and the work of LIFT_CLEAR (R203). -/
def State.liftClear (s : State) : State :=
  if !(s.joined || s.roster.state == .isolated) then s.notActive
  else if s.roster.config.isNone then s.refuse .noConfig
  else if s.activeJob.isSome then s.busy
  else if !s.holds.stack.isEmpty then s.refuse .holdStanding
  else if s.seq.hostLift = .lifting then s.busy
  else s.beginHostLift.ok .empty

/-- LIFT_CLEAR (R203). -/
def execLiftClear (s : State) : Result := s.request .liftClear State.liftClear

/-! ## Claims (R28) -/

/-- The work of VACATE (R28). -/
def State.vacate (rank : Nat) (s : State) : State :=
  if s.roster.state ≠ .active then s.notActive
  else
    match rankOfCode rank with
    | none => s.invalid
    | some r =>
        if r = s.own ∨ (s.reachOf r).isNone then s.invalid
        else ((s.vacateRank r).post .all (.vacate r)).ok (.count (s.staleOf r).length)

/-- VACATE, the host request (R28). -/
def execVacate (rank : Nat) (s : State) : Result := s.request (.vacate rank) (State.vacate rank)

/-! ## Section locks and the configuration (R190, R191, R205) -/

/-- An area write asked for: the port waits in WORKING until it has ended (R191, R195). -/
def State.askArea (target : AreaTarget) (s : State) : State := s.setLog { s.log with areaWrite := some ⟨target, 0⟩ }

/-- The sections first to last are named soundly (R190, R191). -/
def sectionsValid (first last : Nat) : Bool := decide (first ≤ last) && decide (last ≤ 63)

/-- The write section lies within first to last (R190). -/
def LogStore.writesWithin (l : LogStore) (first last : Nat) : Bool :=
  l.writePos.any fun p => decide (first ≤ sectionOf p) && decide (sectionOf p ≤ last)

/-- The tests and the work of LOCK_SECTIONS (R190). -/
def State.lock (first last : Nat) (s : State) : State :=
  if s.log.state = .scanning then s.busy
  else if !sectionsValid first last then s.invalid
  else if s.log.writesWithin first last then s.invalid
  else s.askArea (.lockTable (s.log.locks ||| sectionMask first last))

/-- LOCK_SECTIONS (R190). -/
def execLockSections (first last : Nat) (s : State) : Result :=
  s.request (.lockSections first last) (State.lock first last)

/-- The tests and the work of UNLOCK_SECTIONS (R191). -/
def State.unlock (first last : Nat) (s : State) : State :=
  if s.pins.protect then s.shielded
  else if s.log.state = .scanning then s.busy
  else if !sectionsValid first last then s.invalid
  else s.askArea (.lockTable (s.log.locks &&& ~~~(sectionMask first last)))

/-- UNLOCK_SECTIONS (R191). -/
def execUnlockSections (first last : Nat) (s : State) : Result :=
  s.request (.unlockSections first last) (State.unlock first last)

/-- The tests and the work of WRITE_CONFIG (R205). R197 gives INVALID no payload but LOAD_PROGRAM's, and R205 gives
this one the first failing field: the model follows R205 (log 20). -/
def State.writeConfig (bytes : List Byte) (s : State) : State :=
  if s.pins.protect then s.shielded
  else if s.runningJob.isSome then s.busy
  else if s.log.state = .scanning then s.busy
  else
    match configFailure bytes with
    | some b => s.reply .invalid (.fieldFailure b)
    | none => s.askArea (.config bytes)

/-- WRITE_CONFIG (R205). -/
def execWriteConfig (bytes : List Byte) (s : State) : Result :=
  s.request (.writeConfig bytes) (State.writeConfig bytes)

end Sys2Proof.Machine
end

