-- ==== Sys2Proof/Machine/Dispatch.lean ====
section
/-! DEFINITION. The dispatch: one arm per command, each a direct call of its meaning. -/

namespace Sys2Proof.Machine

/-- The command's effect on everything but the queue. -/
def exec (i : Instr) (s : State) : Host.Outcome State Fault Refusal :=
  match i with
  | .powerOn => Sys2Proof.Machine.execPowerOn s
  | .resetAsserted => Sys2Proof.Machine.execResetAsserted s
  | .resetReleased => Sys2Proof.Machine.execResetReleased s
  | .startUpScanEnd => Sys2Proof.Machine.execStartUpScanEnd s
  | .stopInputAsserted => Sys2Proof.Machine.execStopInputAsserted s
  | .stopInputReleased => Sys2Proof.Machine.execStopInputReleased s
  | .protectInputChange asserted => Sys2Proof.Machine.execProtectInputChange asserted s
  | .contactEdge hook on since => Sys2Proof.Machine.execContactEdge hook on since s
  | .frameEnd frame => Sys2Proof.Machine.execFrameEnd frame s
  | .claimTaken => Sys2Proof.Machine.execClaimTaken s
  | .verdictTaken => Sys2Proof.Machine.execVerdictTaken s
  | .releaseTaken => Sys2Proof.Machine.execReleaseTaken s
  | .vacateTaken => Sys2Proof.Machine.execVacateTaken s
  | .entryTaken => Sys2Proof.Machine.execEntryTaken s
  | .gapTaken => Sys2Proof.Machine.execGapTaken s
  | .goneTaken => Sys2Proof.Machine.execGoneTaken s
  | .fetchTaken => Sys2Proof.Machine.execFetchTaken s
  | .snapshotTaken => Sys2Proof.Machine.execSnapshotTaken s
  | .beaconTaken => Sys2Proof.Machine.execBeaconTaken s
  | .joinTaken => Sys2Proof.Machine.execJoinTaken s
  | .stateTaken => Sys2Proof.Machine.execStateTaken s
  | .idleGapExpiry => Sys2Proof.Machine.execIdleGapExpiry s
  | .lostArbitration => Sys2Proof.Machine.execLostArbitration s
  | .frameSent => Sys2Proof.Machine.execFrameSent s
  | .lineBreakDetected => Sys2Proof.Machine.execLineBreakDetected s
  | .lineBreakReleased => Sys2Proof.Machine.execLineBreakReleased s
  | .breakDriveEnd => Sys2Proof.Machine.execBreakDriveEnd s
  | .answerWindowExpiry number => Sys2Proof.Machine.execAnswerWindowExpiry number s
  | .fetchTimerExpiry => Sys2Proof.Machine.execFetchTimerExpiry s
  | .claimWaitExpiry => Sys2Proof.Machine.execClaimWaitExpiry s
  | .dwellTimerExpiry => Sys2Proof.Machine.execDwellTimerExpiry s
  | .drainTimerExpiry => Sys2Proof.Machine.execDrainTimerExpiry s
  | .settleTimerExpiry => Sys2Proof.Machine.execSettleTimerExpiry s
  | .driveSendEnd => Sys2Proof.Machine.execDriveSendEnd s
  | .arrived channel target => Sys2Proof.Machine.execArrived channel target s
  | .report channel position load moving => Sys2Proof.Machine.execReport channel position load moving s
  | .fault channel code => Sys2Proof.Machine.execFault channel code s
  | .ready channel => Sys2Proof.Machine.execReady channel s
  | .driveEventDiscarded => Sys2Proof.Machine.execDriveEventDiscarded s
  | .moveTimerExpiry channel => Sys2Proof.Machine.execMoveTimerExpiry channel s
  | .stopAllowanceExpiry channel => Sys2Proof.Machine.execStopAllowanceExpiry channel s
  | .silenceTimerExpiry rank => Sys2Proof.Machine.execSilenceTimerExpiry rank s
  | .beaconTimerExpiry => Sys2Proof.Machine.execBeaconTimerExpiry s
  | .joinWindowExpiry => Sys2Proof.Machine.execJoinWindowExpiry s
  | .commitEnd isMatch => Sys2Proof.Machine.execCommitEnd isMatch s
  | .eraseEnd notEmpty => Sys2Proof.Machine.execEraseEnd notEmpty s
  | .areaWriteEnd isMatch => Sys2Proof.Machine.execAreaWriteEnd isMatch s
  | .requestPauseTimeout => Sys2Proof.Machine.execRequestPauseTimeout s
  | .requestCheckFailed => Sys2Proof.Machine.execRequestCheckFailed s
  | .requestIgnored => Sys2Proof.Machine.execRequestIgnored s
  | .unknownRequest code => Sys2Proof.Machine.execUnknownRequest code s
  | .answerSent => Sys2Proof.Machine.execAnswerSent s
  | .status => Sys2Proof.Machine.execStatus s
  | .acknowledge mask => Sys2Proof.Machine.execAcknowledge mask s
  | .readAccount => Sys2Proof.Machine.execReadAccount s
  | .readTable => Sys2Proof.Machine.execReadTable s
  | .readJobList => Sys2Proof.Machine.execReadJobList s
  | .readIdentity => Sys2Proof.Machine.execReadIdentity s
  | .submitJob tag slot first last draw limit => Sys2Proof.Machine.execSubmitJob tag slot first last draw limit s
  | .cancelJob tag => Sys2Proof.Machine.execCancelJob tag s
  | .loadProgram slot segments => Sys2Proof.Machine.execLoadProgram slot segments s
  | .readProgram slot => Sys2Proof.Machine.execReadProgram slot s
  | .charge mass => Sys2Proof.Machine.execCharge mass s
  | .skim mass => Sys2Proof.Machine.execSkim mass s
  | .adjust mass => Sys2Proof.Machine.execAdjust mass s
  | .checkpoint => Sys2Proof.Machine.execCheckpoint s
  | .pause => Sys2Proof.Machine.execPause s
  | .resume => Sys2Proof.Machine.execResume s
  | .allStop => Sys2Proof.Machine.execAllStop s
  | .liftClear => Sys2Proof.Machine.execLiftClear s
  | .vacate rank => Sys2Proof.Machine.execVacate rank s
  | .readLog page count => Sys2Proof.Machine.execReadLog page count s
  | .lockSections first last => Sys2Proof.Machine.execLockSections first last s
  | .unlockSections first last => Sys2Proof.Machine.execUnlockSections first last s
  | .writeConfig bytes => Sys2Proof.Machine.execWriteConfig bytes s

end Sys2Proof.Machine
end

