-- ==== Sys2Proof/Machine/Step.lean ====
section
/-! DEFINITION. One step: the command at the front of the queue is run on the state with the queue's rest; on an empty
queue one millisecond passes (log 1). -/

namespace Sys2Proof.Machine

/-- One millisecond of the station clock (R143). While the station is OFFLINE the clock stands at 0 (R166). -/
def State.tick (s : State) : State := if s.isOn then s.setClock (s.now + 1) else s

/-- One step of the station. -/
def step (s : State) : Host.Outcome State Fault Refusal :=
  match s.pending with
  | c :: rest => exec c { s with pending := rest }
  | [] => .next s.tick

/-- The state with the command that a word spells put at the front of its queue; no row of the table gives bits, so no
word spells one. -/
def State.withFetchWord (s : State) (nbits w : Nat) : State :=
  match Sys2Proof.decodeTableWord nbits w with
  | some c => { s with pending := c :: s.pending }
  | none => s

end Sys2Proof.Machine
end

