-- ==== Sys2Proof/Safety.lean ====
section
/-! DEFINITION. What it means for a state to be sound, and the words the statements use: what keeps still, what frames
the wire can carry. -/

namespace Sys2Proof.Machine

/-- The identities of the entries of a table (R2). -/
def identities (t : List ClaimEntry) : List (Rank × BitVec 16) := t.map fun e => (e.origin, e.number)

/-- The claims a payload lists (R206). -/
def Payload.listed : Payload → List ListedClaim
  | .state _ _ _ claims => claims
  | _ => []

/-- What R2 and R4 say of the occupancy table of a station, given its state, its rank, the identities in its table and
the frames it holds. -/
structure ClaimsBounded (station : StationState) (own : Rank) (ids : List (Rank × BitVec 16))
    (rxA rxB : Option HeldFrame) : Prop where
  /-- At most two entries of one origin (R2). -/
  limited : ∀ r, (ids.filter fun i => i.1 == r).length ≤ 2
  /-- No two entries of another rank have the same identity (R2). (An own claim takes the next of 65,536 numbers, R8: a
  claim that stood while 65,535 others were issued would meet its number again.) -/
  unique : (ids.filter fun i => i.1 != own).Nodup
  /-- Only an ACTIVE station has claims of its own (R9, R176). -/
  owned : station ≠ .active → ∀ i ∈ ids, i.1 ≠ own
  /-- Before it takes frames a station knows of no claim (R4). -/
  unclaimed : station = .offline ∨ station = .loading → ids = []
  /-- A held STATE lists at most two claims (R206). -/
  listsA : ∀ h ∈ rxA, h.frame.payload.listed.length ≤ 2
  /-- A held STATE lists at most two claims (R206). -/
  listsB : ∀ h ∈ rxB, h.frame.payload.listed.length ≤ 2

/-- A sound state: what the manual says always holds of the station's tables, queues and stacks. -/
structure State.Sound (s : State) : Prop where
  /-- The committed amount equals the sum of the reservations in the occupancy table (R54). -/
  tied : s.account.committed = reservations s.claims.table
  /-- STALE_PRESENT stands exactly while the table holds a STALE entry (R26). -/
  stale : s.port.flags.stalePresent = s.claims.table.any ClaimEntry.isStale
  /-- The posting queue holds at most 8 frames (R151). -/
  queue : s.link.queue.length ≤ 8
  /-- The priorities of the hold stack are strictly higher from bottom to top, so no class stands twice (R121). -/
  rising : s.holds.stack.Pairwise fun above below => above.cls.outranks below.cls = true
  /-- The repeat stack a saved context copies holds at most 4 entries (R98, R113). -/
  contexts : ∀ e ∈ s.holds.stack, e.context.loops.length ≤ 4
  /-- The repeat stack holds at most 4 entries (R98). -/
  loops : s.seq.loops.length ≤ 4
  /-- The job list holds at most 4 jobs (R70). -/
  jobs : s.jobs.list.length ≤ 4
  /-- At most one job is in a state other than QUEUED, and it is the head (R71). -/
  queued : ∀ j ∈ s.jobs.list.tail, j.state = .queued
  /-- The retained list holds at most 16 entries (R39). -/
  retained : s.account.retained.length ≤ 16
  /-- The holding list holds at most 8 entries (R43, R44). -/
  holding : s.account.holding.length ≤ 8
  /-- The occupancy table keeps its limits (R2, R4). -/
  bounded : ClaimsBounded s.roster.state s.own (identities s.claims.table) s.link.rxA s.link.rxB

/-- The array is in its canonical form, and the positions the Log Store keeps are pages and sections of the array
(R178). -/
structure State.Formed (s : State) : Prop where
  /-- Page numbers strictly rising, each below 4096. -/
  pages : pagesWf s.flash.pages = true
  /-- The write position is a page of the array. -/
  writePos : ∀ p ∈ s.log.writePos, p < 4096
  /-- The section due to be erased is a section of the array. -/
  due : ∀ x ∈ s.log.eraseDue, x < 64
  /-- The blocked section is a section of the array. -/
  blocked : ∀ b ∈ s.log.blocked, b.sect < 64
  /-- The section being erased is a section of the array. -/
  erasing : ∀ x, s.log.op = .erase x → x < 64

/-- No job stands in the list and the Dip Sequencer is idle. -/
def State.Calm (s : State) : Prop := s.seq.activity = .idle ∧ s.jobs.list = []

/-- Nothing is left to react: the event before has come to its end (log 11). -/
def State.Settled (s : State) : Prop := s.advanceOnce = none

/-- The drive link has nothing to send now: it is sending, or no command waits (R134). -/
def State.Served (s : State) : Prop :=
  s.drive.busy = true ∨
    (s.drive.lead.waiting = none ∧ s.drive.trail.waiting = none ∧ s.drive.travel.waiting = none)

/-- The state between two events: nothing is left to react, nothing to send, and no test of a waiting job is due. -/
def State.Still (s : State) : Prop := s.Settled ∧ s.Served ∧ s.jobs.retestDue = false

/-- The port takes the next request: the station is on and the port is neither WORKING nor ANSWERING (R195, R198). -/
def State.Listens (s : State) : Prop := s.isOn = true ∧ s.portBusy = false

/-- The port as an answer leaves it. -/
def State.answered (s : State) (i : Instr) (st : Status) (p : AnswerPayload) : ControllerPort :=
  { s.port with state := .answering, request := some i, answer := some ⟨requestCode i, st, p⟩ }

/-- The port with a request taken from it to be worked (R195). -/
def State.working (s : State) (i : Instr) : State :=
  { s with port := { s.port with state := .working, request := some i } }

/-! ## Frames that a station takes -/

/-- Case 5 of R169: the frame is another rank's; an identity frame of this station's digest and, from a live rank, of
the unique id on record; and no other frame of an excluded rank. -/
structure State.LetsGo (s : State) (f : Frame) : Prop where
  /-- Not a rank clash. -/
  foreign : f.origin ≠ s.own
  /-- No geometry mismatch. -/
  digest : ∀ id ∈ f.payload.identity?, id.digest = s.roster.digest
  /-- Not a second module answering to a live rank. -/
  genuine : s.roster.peers[f.origin].live = true →
    ∀ id ∈ f.payload.identity?, s.roster.peers[f.origin].uniqueId = some id.uniqueId
  /-- Not excluded, or an identity frame that lifts the exclusion. -/
  included : s.roster.peers[f.origin].excluded = true → f.payload.identity? ≠ none

/-- The station takes frames (LISTENING or ACTIVE), `f` in buffer `i` is its oldest held frame, and the Roster lets it
go on to the blocks of its kind (R159, R169). -/
structure State.Hears (s : State) (i : BufferId) (f : Frame) : Prop where
  joined : s.joined = true
  oldest : s.link.oldest = some (i, f)
  goes : s.LetsGo f

/-- The dispatch command of a frame kind. -/
def FrameKind.command : FrameKind → Instr
  | .verdict => .verdictTaken
  | .release => .releaseTaken
  | .vacate => .vacateTaken
  | .claim => .claimTaken
  | .entry => .entryTaken
  | .gap => .gapTaken
  | .gone => .goneTaken
  | .fetch => .fetchTaken
  | .snapshot => .snapshotTaken
  | .beacon => .beaconTaken
  | .join => .joinTaken
  | .state => .stateTaken

/-- The state once the Roster has taken the frame (R169, case 5, and R172). -/
def State.heard (s : State) (f : Frame) : State := s.hear f.origin f.payload

/-! ## Frames the wire can carry (R206) -/

/-- A number of two bytes less than 65,536, and so on for four. -/
abbrev fitsBytes (k n : Nat) : Prop := n < 256 ^ k

/-- A listed claim with its fields in their bytes. -/
def ListedClaim.Fits (c : ListedClaim) : Prop :=
  fitsBytes 4 c.ticket ∧ fitsBytes 1 c.span.first ∧ fitsBytes 1 c.span.last ∧ c.reservation ≤ maxMass

/-- A vector with its elements in their bytes. -/
def VectorFits (v : Vector Nat 8) : Prop := ∀ i : Fin 8, fitsBytes 4 v[i]

/-- A payload with its fields in their bytes, as R156 and R206 ask. -/
def Payload.Fits : Payload → Prop
  | .verdict _ _ _ => True
  | .release _ => True
  | .vacate _ => True
  | .claim c => c.Fits
  | .entry seq kind amount _ dipId =>
      fitsBytes 4 seq ∧ amount.natAbs ≤ maxMass ∧ (dipId.isSome = true ↔ kind = .draw) ∧
        ∀ d ∈ dipId, fitsBytes 4 d
  | .gap seq => fitsBytes 4 seq
  | .gone seq => fitsBytes 4 seq
  | .fetch _ => True
  | .snapshot _ balance applied => fitsBytes 4 balance ∧ VectorFits applied
  | .beacon _ f =>
      fitsBytes 4 f.ticketCounter ∧ f.census.length ≤ 2 ∧ VectorFits f.applied ∧ fitsBytes 4 f.ownSeq ∧
        fitsBytes 4 f.balance
  | .join _ => True
  | .state _ tickets _ claims => fitsBytes 4 tickets ∧ claims.length ≤ 2 ∧ ∀ c ∈ claims, c.Fits

/-- The frame as a station reads it whole from the line, with every stop bit good. -/
def Frame.wire (f : Frame) (noisy fromStart : Bool) : WireFrame := ⟨f.chars, true, noisy, fromStart⟩

end Sys2Proof.Machine
end

