-- ==== Sys2Proof/Certificates/Slice0/Obligations.lean ====
section
/-! DEFINITION. The statements for the provers. `u.finish` is what the reactions of one event make of `u` (log 11): a
statement that a command answers `.next u.finish` gives the command's own effect as `u`. -/

open Sys2Proof Sys2Proof.Machine

/-! ## The machine as a whole -/

/-- A step takes the command at the front of the queue and runs it on the state with the queue's rest. -/
def Obligations.StepRunsTheFrontCommand : Prop :=
  ∀ (c : Instr) (rest : List Instr) (s : State), s.pending = c :: rest → step s = exec c { s with pending := rest }

/-- No command faults or is refused, and none touches the queue; on an empty queue one millisecond passes, except in
OFFLINE (the model's choice, log 1). -/
def Obligations.EveryStepAnswers : Prop :=
  (∀ (c : Instr) (s : State), ∃ t, exec c s = .next t ∧ t.pending = s.pending) ∧
  (∀ s : State, s.pending = [] →
     (s.roster.state = .offline → step s = .next s) ∧
     (s.roster.state ≠ .offline → step s = .next { s with time := { s.time with clock := s.time.clock + 1 } }))

/-- The state after reset is sound and formed, and every block stands at its reset value: every table, list, queue and
stack empty, every timer stopped, every counter 0. (The values that the manual gives only from LOADING on are the
model's choice, log 30: the cause POWER_ON, no identity, no configuration and digest 0, the next dip id and the next
record sequence 1, every section locked. So are the pins' levels, log 5, and the array's contents, log 4. That no own seq
is used up is its reading, log 53.) -/
def Obligations.ResetStateIsSound : Prop :=
  let s := State.reset
  let quiet : ChannelState := ⟨none, none, none, none, false, none, false⟩
  let dry : Capture := ⟨false, false, none, none⟩
  let unheard : Peer := ⟨none, none, none, none, none, false, none, false⟩
  (s.Sound ∧ s.Formed) ∧
  s.pins = ⟨false, false⟩ ∧
  s.roster = ⟨.offline, .powerOn, none, none, none, 0, 0, Vector.replicate 8 unheard, false, none, none, false⟩ ∧
  s.claims = ⟨[], 0⟩ ∧
  s.account = {
    balance := 0, committed := 0, applied := Vector.replicate 8 0, ownNext := 1, ownSpent := false, state := .starting
    retained := [], holding := [], gaps := Vector.replicate 8 none, deferredDraw := none, clampCount := 0
    sinceCheckpoint := 0, rebaseNumber := 0, fetchTarget := none, fetchTimer := none, checkpointPending := false } ∧
  s.jobs = ⟨[], none, 1, none, false⟩ ∧ s.programs.slots = Vector.replicate 8 [] ∧
  s.seq = ⟨.idle, none, none, none, .stopped, false, false, false, [], 0, none, .none⟩ ∧
  s.drive = ⟨quiet, quiet, quiet, .lead, false, 0⟩ ∧ s.time = ⟨0, dry, dry⟩ ∧
  s.holds = ⟨[], [], ⟨false, false, false⟩, 0⟩ ∧
  s.log = ⟨.scanning, .none, none, none, none, 1, 0, .free, .free, none, none, BitVec.allOnes 64, none⟩ ∧
  s.flash = ⟨[], .of (List.replicate 8 0), .of (List.replicate 48 0), .of (List.replicate 8 0)⟩ ∧
  s.link = ⟨[], .idle, none, none, 0, 0, 0, 0, 0, 0, false, none, false⟩ ∧
  s.port = ⟨.idle, none, none, .none, .none, 0, 0⟩ ∧ s.draws = 0 ∧ s.pending = []

/-- Every step keeps a state sound: the committed amount is the sum of the table's reservations, STALE_PRESENT stands
while an entry is STALE, the table holds at most two claims of one origin and no two of the same identity among other
ranks' claims, the hold stack's priorities rise, only the head job has left QUEUED, and the queues, lists and stacks
stay within their lengths. -/
def Obligations.StepKeepsSound : Prop := ∀ s t : State, s.Sound → step s = .next t → t.Sound

/-- Every step keeps the array in its canonical form, page numbers strictly rising below 4096, and the log's positions
on it. -/
def Obligations.StepKeepsFormed : Prop := ∀ s t : State, s.Formed → step s = .next t → t.Formed

/-- The station state changes only as the table of R165 has it, each change by the command of its cause. -/
def Obligations.StationStateFollowsItsTable : Prop :=
  ∀ (c : Instr) (s t : State), exec c s = .next t → t.roster.state ≠ s.roster.state →
    ((c = .powerOn ∨ c = .resetAsserted) ∧ t.roster.state = .offline) ∨
    (c = .resetReleased ∧ s.roster.state = .offline ∧ t.roster.state = .loading) ∨
    (c = .startUpScanEnd ∧ s.roster.state = .loading ∧
      (t.roster.state = .listening ∨ t.roster.state = .isolated)) ∨
    (c = .joinWindowExpiry ∧ s.roster.state = .listening ∧ t.roster.state = .active) ∨
    ((∃ k : FrameKind, c = k.command) ∧ s.roster.state = .listening ∧ t.roster.state = .isolated)

/-- A frame as it is sent is read back whole: no bit of a payload is dropped. -/
def Obligations.FramesReadBackWhole : Prop :=
  ∀ (f : Frame) (noisy fromStart : Bool), f.payload.Fits → testFrame (f.wire noisy fromStart) = .good f

/-- The check of R208: each byte's step, and the check over the nine bytes 31h to 39h. An area of the array is good
when the check stored with it is that of its bytes. -/
def Obligations.CheckIsTheCrc16 : Prop :=
  crc16 [] = 0xFFFF#16 ∧
  (∀ (bs : List Byte) (b : Byte), crc16 (bs ++ [b]) =
    (List.range 8).foldl (fun r _ => if r.msb then (r <<< 1) ^^^ 0x1021#16 else r <<< 1)
      (crc16 bs ^^^ (b.setWidth 16 <<< 8))) ∧
  (∀ bs : List Byte, checkBytes bs =
    [BitVec.ofNat 8 ((crc16 bs).toNat / 256), BitVec.ofNat 8 (crc16 bs).toNat]) ∧
  crc16 [0x31#8, 0x32#8, 0x33#8, 0x34#8, 0x35#8, 0x36#8, 0x37#8, 0x38#8, 0x39#8] = 0x29B1#16 ∧
  (∀ a : StoredArea, a.good = true ↔ a.check = crc16 a.bytes) ∧
  ∀ bs : List Byte, (StoredArea.of bs).bytes = bs ∧ (StoredArea.of bs).good = true

/-! ## Power, reset and start-up -/

/-- Power-on and the RESET input put every block in its reset state; the last reset cause says which it was. The pins,
the array, the free values drawn and the queue are not the blocks' volatile state (log 5). A reset leaves the array as
it finds it, but for what the operation in flight has torn (log 6). -/
def Obligations.ResetPutsEveryBlockInItsResetState : Prop :=
  (∀ s : State, ∃ flash draws,
     exec .powerOn s = .next { State.reset with
       pins := s.pins, flash := flash, draws := draws, pending := s.pending } ∧
     exec .resetAsserted s = .next { State.reset with
       roster := .reset (if s.roster.state = .offline then s.roster.lastReset else .resetInput)
       pins := s.pins, flash := flash, draws := draws, pending := s.pending } ∧
     (s.log.op = .none → flash = s.flash ∧ draws = s.draws)) ∧
  (∀ s t : State, exec .powerOn s = .next t ∨ exec .resetAsserted s = .next t →
     (∀ p, readPage t.flash.pages p = readPage s.flash.pages p ∨
       (readPage t.flash.pages p = some .invalid ∧
         ((s.log.op = .program ∧ s.log.writePos = some p) ∨ s.log.op = .erase (sectionOf p)))) ∧
     t.flash.identity = s.flash.identity ∧
     (t.flash.locks = s.flash.locks ∨
       s.log.op = .areaWrite ∧ ∃ flags n, s.log.areaWrite = some ⟨.lockTable flags, n⟩) ∧
     (t.flash.config = s.flash.config ∨
       s.log.op = .areaWrite ∧ ∃ bytes n, s.log.areaWrite = some ⟨.config bytes, n⟩))

/-- When the reset ends the station enters LOADING: it posts a STOP on each channel, samples the STOP input, and takes
the identity, the configuration with its digest, and the lock table from the array. An area whose check does not agree
gives an identity that is not good, no configuration, and a lock table with every section locked; so does a field outside
its range, or an own rank without a reach, give no configuration. Section n's flag is bit n mod 8 of byte n div 8. -/
def Obligations.ResetReleasedEntersLoading : Prop :=
  (∀ s : State, s.roster.state = .offline → ∃ u : State, exec .resetReleased s = .next u.finish ∧
    u.roster = { s.roster with
      state := .loading
      identity := some (identityFrom s.flash.identity)
      config := configFrom s.flash.config
      digest := if (configFrom s.flash.config).isSome then geometryDigest s.flash.config.bytes else 0 } ∧
    u.log.locks = locksFrom s.flash.locks ∧
    (∀ ch, (u.channel ch).waiting = some .stop) ∧
    (s.pins.stop = false →
        u = { s with roster := u.roster, log := { s.log with locks := u.log.locks }, drive := u.drive }) ∧
    (s.pins.stop = true → (u.standing .stop = true ∨ u.isPending .stop = true) ∧ u.link.breakDrive = some 1360)) ∧
  (∀ a : StoredArea,
    (identityFrom a).uniqueId = BitVec.ofNat 64 (natOf a.bytes) ∧ (identityFrom a).checkGood = a.good ∧
    (a.good = true → locksFrom a = lockFlags a.bytes) ∧
    (a.good = false → configFrom a = none ∧ locksFrom a = BitVec.allOnes 64)) ∧
  (∀ a : StoredArea, a.good = true →
    let n := fun start len => natOf ((a.bytes.drop start).take len)
    let h := fun start => signedOf 2 (n start 2)
    let within := fun x low high : Nat => low ≤ x ∧ x ≤ high
    let absent := fun r => n (4 + 3 * r) 1 = 0 ∧ n (5 + 3 * r) 1 = 0 ∧ n (6 + 3 * r) 1 = 0
    let present := fun r => n (4 + 3 * r) 1 = 1 ∧ n (5 + 3 * r) 1 ≤ n (6 + 3 * r) 1 ∧ n (6 + 3 * r) 1 < n 1 1
    let sound := n 0 1 ≤ 7 ∧ within (n 1 1) 4 32 ∧ within (n 2 2) 200 2000 ∧ (∀ r < 8, absent r ∨ present r) ∧
      n 28 1 ≤ 3 ∧ n 29 4 ≤ 4000000000 ∧ within (n 33 2) 300 3000 ∧ within (n 35 2) 50 1000 ∧
      (-4000 ≤ h 37 ∧ h 37 ≤ 8000) ∧ (-4000 ≤ h 39 ∧ h 39 ≤ 8000) ∧ within (n 41 2) 10 500 ∧
      within (n 43 2) 10 500 ∧ within (n 45 2) 10 500 ∧ within (n 47 1) 1 50 ∧ n (4 + 3 * n 0 1) 1 = 1
    (¬sound → configFrom a = none) ∧
    (sound → ∃ c, configFrom a = some c ∧ c.ownRank.val = n 0 1 ∧ c.cells = n 1 1 ∧ c.cellLength = n 2 2 ∧
      (∀ r : Rank, (absent r.val → c.reach[r] = none) ∧
        (present r.val → c.reach[r] = some ⟨n (5 + 3 * r.val) 1, n (6 + 3 * r.val) 1⟩)) ∧
      c.beaconPeriod = 100 * 2 ^ n 28 1 ∧ c.floor = n 29 4 ∧ c.clear = (n 33 2 : Int) ∧ c.answerWindow = n 35 2 ∧
      c.lowerLimit = h 37 ∧ c.upperLimit = h 39 ∧ c.slowSpeed = n 41 2 ∧ c.liftSpeed = n 43 2 ∧
      c.travelSpeed = n 45 2 ∧ c.syncTolerance = n 47 1)) ∧
  ∀ flags : BitVec 64, lockFlags (lockBytes flags) = flags ∧
    ∀ n < 64, (lockBytes flags)[n / 8]?.map (·.getLsbD (n % 8)) = some (flags.getLsbD n)

/-- What the start-up scan hands on: the newest checkpoint to the account, the next dip id, the next record sequence.
Where the start-up scan finds to write. The newest record, and the newest CHECKPOINT, is the one of the highest record
sequence on the pages of the array, the highest dip id that of its DIP records; the next EMPTY page after another is the
first in its section. (Of two records of one sequence the one on the lower page is the newest: the model's choice,
log 48. That a checkpoint whose vector shows the last own seq leaves none to use is its reading, log 53.) -/
def Obligations.ScanHandsOnAndFindsWhereToWrite : Prop :=
  (∀ s : State, s.roster.state = .loading → s.log.state = .scanning →
      ∃ u : State, exec .startUpScanEnd s = .next u.finish ∧
     u.jobs.nextDipId =
       (if highestDipId s.flash.pages < 4294967295 then highestDipId s.flash.pages + 1 else 1) ∧
     (newestRecord s.flash.pages = none → u.log.nextSeq = 1) ∧
     (∀ p r, newestRecord s.flash.pages = some (p, r) →
       u.log.nextSeq = if r.seq < 4294967295 then r.seq + 1 else 4294967295) ∧
     (∀ balance applied ownNext ticket,
       newestCheckpoint s.flash.pages = some (.checkpoint balance applied ownNext ticket) →
       u.account.balance = balance ∧ u.account.applied = applied ∧ u.account.ownNext = ownNext ∧
       u.account.ownSpent = (applied[s.own] == 4294967295) ∧ u.account.sinceCheckpoint = 0 ∧
       u.roster.ticketCounter = max s.roster.ticketCounter ticket) ∧
     (newestCheckpoint s.flash.pages = none →
       u.account.balance = s.account.balance ∧ u.account.applied = s.account.applied ∧
       u.account.ownNext = s.account.ownNext ∧ u.account.ownSpent = s.account.ownSpent ∧
       u.port.flags.accountEvent = true)) ∧
  (∀ s : State, s.roster.state = .loading → s.log.state = .scanning →
      ∃ u : State, exec .startUpScanEnd s = .next u.finish ∧
     (∀ p r, newestRecord s.flash.pages = some (p, r) →
       (sectionLocked s.log.locks (sectionOf p) = true →
         u.log.state = .full ∧ u.log.writePos = none ∧ u.log.blocked = some ⟨sectionOf p, false⟩ ∧
         u.port.flags.logFull = true) ∧
       (sectionLocked s.log.locks (sectionOf p) = false →
         (∀ q, nextEmptyAfter s.flash.pages p = some q → u.log.state = .opened ∧ u.log.writePos = some q) ∧
         (nextEmptyAfter s.flash.pages p = none →
           (sectionLocked s.log.locks (sectionAhead (sectionOf p)) = true →
             u.log.state = .full ∧ u.log.writePos = none ∧
             u.log.blocked = some ⟨sectionAhead (sectionOf p), true⟩ ∧ u.port.flags.logFull = true) ∧
           (sectionLocked s.log.locks (sectionAhead (sectionOf p)) = false →
             u.log.state = .opened ∧ u.log.eraseDue = some (sectionAhead (sectionOf p)))))) ∧
     (newestRecord s.flash.pages = none →
       (sectionLocked s.log.locks 0 = true →
         u.log.state = .full ∧ u.log.writePos = none ∧ u.log.blocked = some ⟨0, true⟩ ∧
         u.port.flags.logFull = true) ∧
       (sectionLocked s.log.locks 0 = false →
         u.log.state = .opened ∧ u.log.writePos = some 0 ∧
         ((∀ p < 64, readPage s.flash.pages p = none) → u.log.eraseDue = s.log.eraseDue) ∧
         ((∃ p < 64, readPage s.flash.pages p ≠ none) → u.log.eraseDue = some 0)))) ∧
  (∀ pages : List (Nat × PageContent), pagesWf pages = true →
    let holds := fun (p : Nat) (r : Record) => readPage pages p = some (.record r)
    let isCheckpoint := fun r : Record => ∃ balance applied ownNext ticket,
      r.body = .checkpoint balance applied ownNext ticket
    let after := fun (p : Nat) (r : Record) (q : Nat) (x : Record) => x.seq < r.seq ∨ (x.seq = r.seq ∧ p ≤ q)
    (∀ p r, newestRecord pages = some (p, r) ↔ holds p r ∧ ∀ q x, holds q x → after p r q x) ∧
    (newestRecord pages = none ↔ ∀ p r, ¬holds p r) ∧
    (∀ b, newestCheckpoint pages = some b ↔ ∃ p r, holds p r ∧ isCheckpoint r ∧ r.body = b ∧
      ∀ q x, holds q x → isCheckpoint x → after p r q x) ∧
    (newestCheckpoint pages = none ↔ ∀ p r, holds p r → ¬isCheckpoint r) ∧
    (∀ p r d, holds p r → r.body = .dip d → d.dipId ≤ highestDipId pages) ∧
    (highestDipId pages = 0 ∨ ∃ p r d, holds p r ∧ r.body = .dip d ∧ d.dipId = highestDipId pages)) ∧
  (∀ (pages : List (Nat × PageContent)) (p : Nat),
    let first := fun (from' bound q : Nat) => from' ≤ q ∧ q < bound ∧ readPage pages q = none ∧
      ∀ x, from' ≤ x → x < q → readPage pages x ≠ none
    (∀ n q, nextEmpty pages n p = some q ↔ first p (p + n) q) ∧
    (∀ n, nextEmpty pages n p = none ↔ ∀ x, p ≤ x → x < p + n → readPage pages x ≠ none) ∧
    (∀ q, nextEmptyAfter pages p = some q ↔ first (p + 1) (64 * (p / 64 + 1)) q) ∧
    (nextEmptyAfter pages p = none ↔ ∀ x, p < x → x / 64 = p / 64 → readPage pages x ≠ none))

/-- After the scan a station with an unsound identity or configuration is ISOLATED; a sound one is LISTENING, with its
beacon timer and join window running and a STATE, a JOIN and a BEACON posted. (That the scan's results are handed on
before the station state changes is the model's reading, log 37; that the STATE lists the own claims in the table's order
is its choice, log 54.) -/
def Obligations.ScanEndLeavesLoading : Prop :=
  ∀ s : State, s.roster.state = .loading → s.log.state = .scanning →
      ∃ u : State, exec .startUpScanEnd s = .next u.finish ∧
    (s.roster.identity.any (·.checkGood) = false →
      u.roster.state = .isolated ∧ u.roster.isolation = some .identityInvalid ∧ u.claims.table = []) ∧
    (s.roster.identity.any (·.checkGood) = true → s.roster.config = none →
      u.roster.state = .isolated ∧ u.roster.isolation = some .configInvalid ∧ u.claims.table = []) ∧
    (s.roster.identity.any (·.checkGood) = true → s.roster.config ≠ none →
      u.roster.state = .listening ∧
      u.roster.beaconTimer = some ⟨s.time.clock, s.conf.beaconPeriod⟩ ∧
      u.roster.joinWindow = some ⟨s.time.clock, 3 * s.conf.beaconPeriod⟩ ∧
      (s.link.queue.length ≤ 5 → u.link.queue = s.link.queue ++
        [⟨s.own, .all, .state u.identityFields u.roster.ticketCounter u.account.state
            (u.ownEntries.map ClaimEntry.listed)⟩,
         ⟨s.own, .all, .join u.identityFields⟩,
         ⟨s.own, .all, .beacon u.identityFields u.beaconFields⟩]))

/-! ## Input lines and the plant stop -/

/-- Each of STOP's causes latches STOP; the input and the host's request also drive a line break of 1360 bit times,
twice the longest legal frame. A release of the input and the PROTECT input change their levels only. (That a break
ends a sending without a count, and empties the queue of an ISOLATED station, is the model's choice, log 9.) -/
def Obligations.PlantStopLatchesAndDrivesTheBreak : Prop :=
  (∀ s : State, s.driveBreak = { s with link := { s.link with
      sending := .idle, lineIdle := false, breakDrive := some 1360
      queue := if s.roster.state = .isolated then [] else s.link.queue } }) ∧
  (∀ s : State, s.pins.stop = false → s.roster.state ≠ .offline →
    exec .stopInputAsserted s =
      .next (({ s with pins := { s.pins with stop := true } } : State).latch .stop .stopInput).driveBreak.finish) ∧
  (∀ s : State, s.pins.stop = true ∨ s.roster.state = .offline →
    exec .stopInputAsserted s = .next { s with pins := { s.pins with stop := true } }) ∧
  (∀ s : State, s.Listens →
    exec .allStop s = .next (((s.working .allStop).latch .stop .allStop).driveBreak.ok .empty).finish) ∧
  (∀ s : State, s.roster.state ≠ .offline → s.link.inBreak = false →
    exec .lineBreakDetected s =
      .next (({ s with link := { s.link with
        sending := .idle, lineIdle := false, inBreak := true
        queue := if s.roster.state = .isolated then [] else s.link.queue } } : State).latch .stop .lineBreak).finish) ∧
  (∀ s : State, s.roster.state = .offline ∨ s.link.inBreak = true → exec .lineBreakDetected s = .next s) ∧
  (∀ s : State, exec .stopInputReleased s = .next { s with pins := { s.pins with stop := false } }) ∧
  (∀ (s : State) (b : Bool),
    exec (.protectInputChange b) s = .next { s with pins := { s.pins with protect := b } })

/-- A contact line that has held a new level for 20 ms has an edge; a line at its present level, one that changed less
than 20 ms ago, and a change later than the clock have none (log 28). An edge at an armed capture keeps the first entry
and the last exit; at a disarmed one it changes the level only. Under an active DRAIN an edge to on is the program
fault DRAIN_WET. -/
def Obligations.ContactEdgeIsCaptured : Prop :=
  ∀ (s : State) (hook : Hook) (on : Bool) (since : Time), s.roster.state ≠ .offline →
    let held := timeLater since s.time.clock = false ∧ 20 ≤ (s.time.clock - since).toNat
    ((s.time.get hook).on = on ∨ ¬held → exec (.contactEdge hook on since) s = .next s) ∧
    ((s.time.get hook).on ≠ on → held →
      ∃ u : State, u = { s with time := u.time } ∧
      (∀ h, h ≠ hook → u.time.get h = s.time.get h) ∧ u.time.clock = s.time.clock ∧
      (u.time.get hook).on = on ∧ (u.time.get hook).armed = (s.time.get hook).armed ∧
      ((s.time.get hook).armed = false →
        (u.time.get hook).entry = (s.time.get hook).entry ∧ (u.time.get hook).exit = (s.time.get hook).exit) ∧
      ((s.time.get hook).armed = true → on = true →
        (u.time.get hook).entry = some ((s.time.get hook).entry.getD since) ∧
        (u.time.get hook).exit = (s.time.get hook).exit) ∧
      ((s.time.get hook).armed = true → on = false →
        (u.time.get hook).entry = (s.time.get hook).entry ∧ (u.time.get hook).exit = some since) ∧
      (on = true → (∃ time, s.activeKind = some (.drain time)) →
        exec (.contactEdge hook on since) s = .next (u.programFault .drainWet).finish) ∧
      (on = false ∨ (∀ time, s.activeKind ≠ some (.drain time)) →
        exec (.contactEdge hook on since) s = .next u.finish))

/-! ## The wire of the kettle link -/

/-- Posting: appended at the end; posted to an empty queue on an idle line it is begun: the sending status becomes SENDING
and the line is idle no more; dropped and counted when the queue holds 8; discarded without counting outside LISTENING and
ACTIVE. A count raises its counter by one, which stays at 65,535, and raises LINK_ERROR. (How long a line counts as idle
is the model's choice, log 9.) -/
def Obligations.PostingKeepsOrderAndCountersSaturate : Prop :=
  (∀ (s : State) (d : Dest) (p : Payload),
     (s.joined = true → s.link.queue.length < 8 →
       (s.link.lineIdle = true → s.link.queue = [] →
         s.post d p = { s with link := { s.link with
           queue := [⟨s.own, d, p⟩], sending := .sending, lineIdle := false } }) ∧
       (s.link.lineIdle = false ∨ s.link.queue ≠ [] →
         s.post d p = { s with link := { s.link with queue := s.link.queue ++ [⟨s.own, d, p⟩] } })) ∧
     (s.joined = true → 8 ≤ s.link.queue.length → s.post d p = s.countLink .postDrop) ∧
     (s.joined = false → s.post d p = s)) ∧
  (∀ (s : State) (n : Nat),
     let up := fun k => if k < 65535 then k + 1 else k
     let flagged := { s.port with flags := { s.port.flags with linkError := true } }
     (s.countLink .framing = { s with link := { s.link with framing := up s.link.framing }, port := flagged }) ∧
     (s.countLink .check = { s with link := { s.link with check := up s.link.check }, port := flagged }) ∧
     (s.countLink .noise = { s with link := { s.link with noise := up s.link.noise }, port := flagged }) ∧
     (s.countLink .overrun = { s with link := { s.link with overrun := up s.link.overrun }, port := flagged }) ∧
     (s.countLink .postDrop = { s with link := { s.link with postDrop := up s.link.postDrop }, port := flagged }) ∧
     (s.countLink .lostArbitration =
       { s with link := { s.link with lostArbitration := up s.link.lostArbitration }, port := flagged }) ∧
     (n ≤ 65535 → up n ≤ 65535))

/-- A frame that ends is dropped and counted by the first test it fails, discarded when it is addressed elsewhere, or
stored in a FREE receive buffer, A first; with both HOLDING it is an overrun. The first test: good stop bits, the start
character, a class and code of the table, a destination, the length its kind allows, the end delimiter after the check;
the second: the check agrees; the third: ranks, codes, counts and masses in their ranges. One that passes all three is
read with its kind, origin and destination. A frame whose start was not seen is not
taken. An ISOLATED station counts what it tests and stores nothing; a LOADING one tests nothing. (That a FRAME_END
while SENDING ends the sending without a count, and empties the queue of an ISOLATED station, and when the line counts
as idle, is the model's choice, log 9. That a station without a configuration has no frame addressed to it by rank, and
so counts NOISE of frames to ALL only, is the model's reading, log 27.) -/
def Obligations.FrameEndCountsOrStores : Prop :=
  (∀ (s : State) (w : WireFrame), s.joined = true ∨ s.roster.state = .isolated →
    let u : State := { s with link := { s.link with
      sending := .idle, lineIdle := false
      queue := if s.roster.state = .isolated then [] else s.link.queue } }
    (w.fromStart = false → exec (.frameEnd w) s = .next u) ∧
    (w.fromStart = true →
      (testFrame w = .framing → exec (.frameEnd w) s = .next (u.countLink .framing)) ∧
      (testFrame w = .check → exec (.frameEnd w) s = .next (u.countLink .check)) ∧
      (∀ f r, testFrame w = .good f → f.dest = .rank r → r ≠ s.own ∨ s.roster.config = none →
        exec (.frameEnd w) s = .next u) ∧
      (∀ f, testFrame w = .good f → f.dest = .all ∨ (f.dest = .rank s.own ∧ s.roster.config ≠ none) →
        let v := if w.noisy then u.countLink .noise else u
        (s.roster.state = .isolated → exec (.frameEnd w) s = .next v) ∧
        (s.joined = true →
          (s.link.rxA = none → s.link.rxB = none →
            exec (.frameEnd w) s = .next { v with link := { v.link with rxA := some ⟨f, 0⟩ } }) ∧
          (∀ y, s.link.rxA = none → s.link.rxB = some y →
            exec (.frameEnd w) s = .next { v with link := { v.link with rxA := some ⟨f, y.order + 1⟩ } }) ∧
          (∀ x, s.link.rxA = some x → s.link.rxB = none →
            exec (.frameEnd w) s = .next { v with link := { v.link with rxB := some ⟨f, x.order + 1⟩ } }) ∧
          (∀ x y, s.link.rxA = some x → s.link.rxB = some y →
            exec (.frameEnd w) s = .next (v.countLink .overrun)))))) ∧
  (∀ (s : State) (w : WireFrame),
    (s.roster.state = .loading → exec (.frameEnd w) s =
      .next { s with link := { s.link with sending := .idle, lineIdle := false } }) ∧
    (s.roster.state = .offline → exec (.frameEnd w) s = .next s)) ∧
  (∀ w : WireFrame, w.chars.length < 4 → testFrame w = .framing) ∧
  (∀ (w : WireFrame) (c0 c1 c2 c3 : Byte) (rest : List Byte), w.chars = c0 :: c1 :: c2 :: c3 :: rest →
    let payload := rest.take c3.toNat
    let n := fun start len => natOf ((payload.drop start).take len)
    let size := fun k : FrameKind => match k with
      | .verdict => 4
      | .release => 2
      | .vacate => 1
      | .claim => 13
      | .entry => if n 4 1 = 0 then 17 else 13
      | .gap => 4
      | .gone => 4
      | .fetch => 2
      | .snapshot => 38
      | .beacon => 61
      | .join => 11
      | .state => 17 + 13 * n 16 1
    let first := fun k : FrameKind =>
      w.stopBitsGood = true ∧ c0 = 0xAA#8 ∧ k.classCode = (c1.toNat / 64, c1.toNat % 8) ∧
      (c2 = 0xFF#8 ∨ c2.toNat < 8) ∧ payload.length = size k ∧ (k = .state → n 16 1 ≤ 2) ∧
      ∃ a b, rest = payload ++ [a, b, 0x7E#8]
    let second := (rest.drop c3.toNat).take 2 = checkBytes (c1 :: c2 :: c3 :: payload)
    let third := fun k : FrameKind => match k with
      | .verdict => n 2 1 ≤ 2 ∧ n 3 1 ≤ 1
      | .vacate => n 0 1 ≤ 7
      | .claim => n 2 1 ≤ 2 ∧ n 9 4 ≤ 16000000
      | .entry => n 4 1 ≤ 3 ∧ (signedOf 4 (n 5 4)).natAbs ≤ 16000000
      | .beacon => n 10 1 ≤ 4 ∧ n 15 1 ≤ 2 ∧ n 60 1 ≤ 3
      | .join => n 10 1 ≤ 4
      | .state => n 10 1 ≤ 4 ∧ n 15 1 ≤ 3 ∧
          ∀ i < n 16 1, n (19 + 13 * i) 1 ≤ 2 ∧ n (26 + 13 * i) 4 ≤ 16000000
      | _ => True
    ((∀ k, ¬first k) → testFrame w = .framing) ∧
    (∀ k, first k →
      (¬second → testFrame w = .check) ∧
      (second → ¬third k → testFrame w = .framing) ∧
      (second → third k → ∃ f : Frame, testFrame w = .good f ∧ f.payload.kind = k ∧
        f.origin.val = c1.toNat / 8 % 8 ∧ f.dest.byte = c2)))

/-- The head frame is begun when the line becomes idle, stays at the head when it loses, and leaves the queue when it
has been sent; in ISOLATED it leaves the queue also when it loses. A line break that ends leaves the break detector
QUIET; a break drive that ends is OFF. (That an idle gap says that nothing is being sent is the model's choice, log 9; so
is that with nothing being sent LOST_ARBITRATION and FRAME_SENT change nothing, and an idle gap during a break, log 3.)
-/
def Obligations.HeadFrameContendsAndBreaksEnd : Prop :=
  (∀ s : State, s.roster.state ≠ .offline → s.link.inBreak = false → s.link.breakDrive = none →
     (s.joined = true → s.link.queue ≠ [] →
       exec .idleGapExpiry s =
         .next { s with link := { s.link with sending := .sending, lineIdle := false } }) ∧
     (s.joined = true → s.link.queue = [] →
       exec .idleGapExpiry s =
         .next { s with link := { s.link with sending := .idle, lineIdle := true } }) ∧
     (s.roster.state = .isolated → exec .idleGapExpiry s =
       .next { s with link := { s.link with sending := .idle, lineIdle := true, queue := [] } }) ∧
     (s.roster.state = .loading → exec .idleGapExpiry s =
       .next { s with link := { s.link with sending := .idle, lineIdle := true } })) ∧
  (∀ s : State, s.roster.state = .offline ∨ s.link.inBreak = true ∨ s.link.breakDrive ≠ none →
     exec .idleGapExpiry s = .next s) ∧
  (∀ s : State,
     (s.link.sending = .sending → s.roster.state ≠ .isolated → exec .lostArbitration s =
       .next (({ s with link := { s.link with sending := .idle } } : State).countLink
         .lostArbitration)) ∧
     (s.link.sending = .sending → s.roster.state = .isolated → exec .lostArbitration s =
       .next (({ s with link := { s.link with sending := .idle, queue := [] } } : State).countLink
         .lostArbitration)) ∧
     (s.link.sending = .sending → exec .frameSent s =
       .next { s with link := { s.link with sending := .idle, queue := s.link.queue.tail } }) ∧
     (s.link.sending = .idle → exec .lostArbitration s = .next s ∧ exec .frameSent s = .next s)) ∧
  (∀ s : State, exec .lineBreakReleased s = .next { s with link := { s.link with inBreak := false } } ∧
     exec .breakDriveEnd s = .next { s with link := { s.link with breakDrive := none } })

/-! ## The Roster's test of a frame -/

/-- A frame that the Roster does not let go on: the dispatch ends with the Roster's own effect. -/
def Obligations.RosterEndsTheDispatch : Prop :=
  ∀ (s : State) (i : BufferId) (f : Frame), s.joined = true → s.link.oldest = some (i, f) →
    let ends := fun u : State => exec f.payload.kind.command s = .next (u.freeRx i).finish
    let p := s.roster.peers[f.origin]
    (f.origin = s.own → s.roster.state = .listening → ends (s.enterIsolated .rankClash)) ∧
    (f.origin = s.own → s.roster.state = .active → s.roster.clashed = false →
      ends (({ s with roster := { s.roster with clashed := true } } : State).raise .peerChange)) ∧
    (f.origin = s.own → s.roster.state = .active → s.roster.clashed = true → ends s) ∧
    (∀ id, f.origin ≠ s.own → f.payload.identity? = some id → id.digest ≠ s.roster.digest →
      (s.roster.state = .listening → ends (s.enterIsolated .digestMismatch)) ∧
      (s.roster.state = .active → p.live = false → p.excluded = true → ends s) ∧
      (s.roster.state = .active → p.live = false → p.excluded = false →
        ends ((s.setPeer f.origin { p with excluded := true }).raise .peerChange)) ∧
      (s.roster.state = .active → p.live = true →
        ends ((((if p.excluded then s else (s.setPeer f.origin { p with excluded := true }).raise .peerChange)).depart
          f.origin)))) ∧
    (∀ id, f.origin ≠ s.own → f.payload.identity? = some id → id.digest = s.roster.digest →
      p.live = true → p.uniqueId ≠ some id.uniqueId → ends s) ∧
    (f.origin ≠ s.own → f.payload.identity? = none → p.excluded = true → ends s)

/-- The record of a rank whose frame is taken: heard now, its silence timer running again; from an identity frame its
unique id and state, with its account state and beacon fields where the frame carries them; any exclusion lifted; and
live, with PEER_CHANGE, when it was not live and shows LISTENING or ACTIVE. -/
def Obligations.TakenFrameIsRecorded : Prop :=
  ∀ (s : State) (f : Frame),
    let p := s.roster.peers[f.origin]
    let u := s.heard f
    let q := u.roster.peers[f.origin]
    u = { s with roster := { s.roster with peers := s.roster.peers.set f.origin q }, port := u.port } ∧
    q.lastHeard = some s.time.clock ∧ q.silence = some ⟨s.time.clock, 3 * s.conf.beaconPeriod⟩ ∧
    (f.payload.identity? = none →
      q = { p with lastHeard := q.lastHeard, silence := q.silence } ∧ u.port = s.port) ∧
    (∀ id, f.payload.identity? = some id →
      q.uniqueId = some id.uniqueId ∧ q.state = some id.state ∧ q.excluded = false ∧
      (∀ a, f.payload.account? = some a → q.account = some a) ∧
      (f.payload.account? = none → q.account = p.account) ∧
      (∀ b, f.payload.beacon? = some b → q.beacon = some b) ∧
      (f.payload.beacon? = none → q.beacon = p.beacon) ∧
      (p.live = true → q.live = true ∧ u.port = s.port) ∧
      (p.live = false → id.state = .listening ∨ id.state = .active →
        q.live = true ∧ u.port = { s.port with flags := { s.port.flags with peerChange := true } }) ∧
      (p.live = false → id.state ≠ .listening → id.state ≠ .active → q.live = false ∧ u.port = s.port))

/-- A rank that leaves the live set: its record, PEER_CHANGE, its entries STALE, its place in every own grant set, and
a rebase when its gap record is open. A departed rank's entries in NOTED, DEFERRED or GRANTED become STALE and keep
the state they leave; other ranks' entries and entries already STALE stay; the rank leaves the grant set of a
REQUESTING entry. (That the expiry of a rank that is not live stops its timer and changes nothing else is the model's
reading, log 26.) -/
def Obligations.SilentRankDepartsAndItsEntriesBecomeStale : Prop :=
  (∀ (s : State) (r : Rank) (t : Timer), s.roster.peers[r].silence = some t → t.due s.time.clock = true →
     let p := s.roster.peers[r]
     let u := ((s.setPeer r { p with live := false, silence := none }).raise .peerChange).setTable
       (s.claims.table.map fun e => (e.makeStale r).mapGrants (dropRank r))
     (p.live = true → s.applying = true → s.account.gaps[r].isSome = true →
       exec (.silenceTimerExpiry r) s = .next (u.beginRebase none).finish) ∧
     (p.live = true → s.applying = false ∨ s.account.gaps[r] = none →
       exec (.silenceTimerExpiry r) s = .next u.finish) ∧
     (p.live = false →
       exec (.silenceTimerExpiry r) s = .next (s.setPeer r { p with silence := none }).finish)) ∧
  (∀ (r : Rank) (e : ClaimEntry),
     let d := (e.makeStale r).mapGrants (dropRank r)
     d = { e with state := d.state } ∧
     (e.origin = r → e.state = .noted → d.state = .stale .noted) ∧
     (e.origin = r → e.state = .deferred → d.state = .stale .deferred) ∧
     (e.origin = r → e.state = .granted → d.state = .stale .granted) ∧
     (∀ p, e.state = .stale p → d.state = .stale p) ∧
     (e.state = .held → d.state = .held) ∧
     (e.origin ≠ r → (∀ g n w, e.state ≠ .requesting g n w) → d.state = e.state) ∧
     (∀ g n w, e.state = .requesting g n w →
       d.state = .requesting (g.filter fun x => x.rank != r) n w))

/-- The beacon timer runs again and a BEACON is posted. The end of the join: a rebase from the lowest-ranked live
SYNCED peer, or the checkpoint copy taken as SYNCED; the RECOVERY claim when a hook is not known to be clear; then
ACTIVE. `syncedPeer` is the lowest live rank whose record shows SYNCED. (That the census goes in the table's order is the
model's choice, log 54.) -/
def Obligations.BeaconIsPostedAndJoinEndsActive : Prop :=
  (∀ (s : State) (t : Timer), s.roster.beaconTimer = some t → t.due s.time.clock = true →
    let u : State := { s with roster := { s.roster with
      beaconTimer := some ⟨s.time.clock, s.conf.beaconPeriod⟩ } }
    exec .beaconTimerExpiry s = .next (u.post .all (.beacon s.identityFields
      { ticketCounter := s.roster.ticketCounter
        census := (s.claims.table.filter fun e => e.origin == s.own).map (·.number)
        applied := s.account.applied
        ownSeq := s.account.ownNext - 1
        balance := s.account.balance
        account := s.account.state }))) ∧
  (∀ (s : State) (t : Timer), s.roster.state = .listening → s.roster.joinWindow = some t →
    t.due s.time.clock = true →
    let u : State := { s with roster := { s.roster with joinWindow := none } }
    (∀ r, s.syncedPeer = some r → s.bothClear = true →
      exec .joinWindowExpiry s = .next ((u.beginRebase none).setStation .active).finish) ∧
    (∀ r, s.syncedPeer = some r → s.bothClear = false →
      exec .joinWindowExpiry s = .next ((u.beginRebase none).issueRecovery.setStation .active).finish) ∧
    (s.syncedPeer = none → s.bothClear = true →
      exec .joinWindowExpiry s = .next ((u.workThrough.setAccountState .synced).setStation .active).finish) ∧
    (s.syncedPeer = none → s.bothClear = false →
      exec .joinWindowExpiry s =
        .next ((u.workThrough.setAccountState .synced).issueRecovery.setStation .active).finish)) ∧
  (∀ s : State,
    let shows := fun r : Rank =>
      r ≠ s.own ∧ s.roster.peers[r].live = true ∧ s.roster.peers[r].account = some .synced
    (∀ r, s.syncedPeer = some r ↔ shows r ∧ ∀ q, q < r → ¬shows q) ∧
    (s.syncedPeer = none ↔ ∀ r, ¬shows r))

/-- What the entry to ISOLATED leaves: the reason, no timer of the join, no live rank, an empty table with nothing
committed, and of the posting queue only a frame being sent; PEER_CHANGE when a rank was live. The
RECOVERY claim: over the whole reach, HELD at once, with the foreign GRANTED claims it overlaps put back to DEFERRED; it
ends when both hooks are known to be at or above the clear height: each has reported, and its latest report is not below
it. -/
def Obligations.IsolationAndRecoveryAct : Prop :=
  (∀ (s : State) (why : IsolationReason),
    let t := s.enterIsolated why
    t = { s with
      roster := { s.roster with
        state := .isolated, isolation := some why, beaconTimer := none, joinWindow := none, peers := t.roster.peers }
      claims := { s.claims with table := [] }
      account := { s.account with committed := 0 }
      jobs := { s.jobs with retestDue := s.jobs.retestDue || !s.claims.table.isEmpty }
      link := { s.link with
        queue := if s.link.sending = .sending then s.link.queue.take 1 else [], rxA := none, rxB := none }
      port := { s.port with flags := { s.port.flags with
        stalePresent := false
        peerChange := s.port.flags.peerChange || s.roster.peers.toList.any (·.live) } } } ∧
    ∀ r : Rank, t.roster.peers[r] =
      if s.roster.peers[r].live then { s.roster.peers[r] with live := false, silence := none }
      else s.roster.peers[r]) ∧
  (∀ (s : State) (reach : Span), s.conf.reach[s.own] = some reach →
    let number := s.claims.ownCounter + 1
    let ticket := if s.roster.ticketCounter < 4294967295 then s.roster.ticketCounter + 1 else 4294967295
    let u := s.setTable (s.claims.table.map fun e =>
      if e.origin ≠ s.own ∧ e.state = .granted ∧ e.kind ≠ .recovery ∧ e.span.overlaps reach = true then
        { e with state := .deferred } else e)
    let v : State := { u with
      claims := { u.claims with ownCounter := number }, roster := { u.roster with ticketCounter := ticket } }
    s.issueRecovery =
      (v.setTable (v.claims.table ++ [⟨s.own, number, .recovery, ticket, reach, 0, .held, none⟩])).post .all
        (.claim ⟨number, .recovery, ticket, reach, 0⟩)) ∧
  (∀ s : State,
    (s.aboveClear .lead = false ∨ s.aboveClear .trail = false → s.endRecovery = s) ∧
    ((∀ e ∈ s.claims.table, e.origin = s.own → e.kind ≠ .recovery) → s.endRecovery = s) ∧
    (∀ e, s.aboveClear .lead = true → s.aboveClear .trail = true →
      s.claims.table.find? (fun e => e.origin == s.own && e.kind == .recovery) = some e →
      s.endRecovery = s.endClaim e.number)) ∧
  (∀ s : State,
    (∀ ch, s.aboveClear ch = true ↔ ∃ r, (s.channel ch).report = some r ∧ s.conf.clear ≤ r.position) ∧
    (s.bothClear = true ↔ s.aboveClear .lead = true ∧ s.aboveClear .trail = true))

/-! ## Claims -/

/-- Ticket order: the lower value first, the lower rank at equal values; a strict order in which two claims of
different origins are never equal. -/
def Obligations.TicketsAreStrictlyOrdered : Prop :=
  (∀ v r w q, ticketEarlier v r w q = true ↔ v < w ∨ (v = w ∧ r < q)) ∧
  (∀ v r, ticketEarlier v r v r = false) ∧
  (∀ v r w q x p, ticketEarlier v r w q = true → ticketEarlier w q x p = true → ticketEarlier v r x p = true) ∧
  (∀ v r w q, r ≠ q → ticketEarlier v r w q = true ∨ ticketEarlier w q v r = true)

/-- The tests of a request for a DIP or SHIFT claim, in their order. A claim that passes its tests: a new number and
ticket, the entry with its grant set, the CLAIM posted; HELD at once when no live peer's reach meets the span. -/
def Obligations.ClaimRequestIsTestedThenIssued : Prop :=
  (∀ (s : State) (kind : ClaimKind) (sp : Span) (n : Nat), kind ≠ .recovery →
     let active := s.roster.state = .active
     let room := (s.claims.table.filter fun e => e.origin == s.own).length < 2
     let reach := sp.valid s.conf.cells = true ∧ withinReach (s.reachOf s.own) sp = true
     let synced := if kind = .dip then s.account.state = .synced else s.account.state ≠ .rebasing
     let clear := ∀ e ∈ s.claims.table, e.isStale = true → e.span.overlaps sp = false
     let bath := kind = .dip → (s.conf.floor : Int) ≤ s.account.balance - reservations s.claims.table - n
     (¬active → s.issueRefusal kind sp n = some .notActive) ∧
     (active → ¬room → s.issueRefusal kind sp n = some .ownLimit) ∧
     (active → room → ¬reach → s.issueRefusal kind sp n = some .outOfReach) ∧
     (active → room → reach → ¬synced → s.issueRefusal kind sp n = some .notSynced) ∧
     (active → room → reach → synced → ¬clear → s.issueRefusal kind sp n = some .blockedCells) ∧
     (active → room → reach → synced → clear → ¬bath → s.issueRefusal kind sp n = some .blockedBath) ∧
     (active → room → reach → synced → clear → bath → s.issueRefusal kind sp n = none) ∧
     (∀ tag a, s.issueRefusal kind sp n = some a → s.askClaim kind sp n tag = (s, a))) ∧
  (∀ (s : State) (kind : ClaimKind) (sp : Span) (n : Nat) (tag : BitVec 16), s.issueRefusal kind sp n = none →
     let number := s.claims.ownCounter + 1
     let ticket := if s.roster.ticketCounter < 4294967295 then s.roster.ticketCounter + 1 else 4294967295
     let grants := ((([0, 1, 2, 3, 4, 5, 6, 7] : List Rank).filter fun r => r != s.own && s.roster.peers[r].live).filter
       fun r => reachMeets s.conf.reach[r] sp).map fun r => GrantSlot.mk r .unanswered
     let u : State := { s with
       claims := { s.claims with ownCounter := number }, roster := { s.roster with ticketCounter := ticket } }
     let enter := fun c : ClaimState =>
       (u.setTable (s.claims.table ++ [⟨s.own, number, kind, ticket, sp, n, c, some tag⟩])).post .all
         (.claim ⟨number, kind, ticket, sp, n⟩)
     (grants = [] → s.askClaim kind sp n tag = (enter .held, .held number)) ∧
     (grants ≠ [] → s.askClaim kind sp n tag =
       (enter (.requesting grants 1 ⟨s.time.clock, s.conf.answerWindow⟩), .requesting number)))

/-- A new DIP or SHIFT CLAIM is entered in the state the verdict rule decides, and the verdict is posted to its origin
by an ACTIVE station. The reactions that follow are in `finish`. `made` is the station with the ticket counter raised,
without a left-over of the same identity and without what the third-claim rule removes (R12), each own claim that this
frees turned HELD (R18). -/
def Obligations.NewClaimIsDecided : Prop :=
  ∀ (s : State) (i : BufferId) (f : Frame) (c : ListedClaim), s.Hears i f → f.payload = .claim c → c.kind ≠ .recovery →
    (∀ e, s.entryOf f.origin c.number = some e → e.ticket ≠ c.ticket) →
    let takes := fun t : State => exec .claimTaken s = .next (t.freeRx i).finish
    let made := (((s.heard f).raiseTicket c.ticket).setTable
      (thirdClaim f.origin c.number (removeEntry f.origin c.number s.claims.table))).promoteAll
    let enter := fun st : ClaimState => made.setTable
      (made.claims.table ++ [⟨f.origin, c.number, c.kind, c.ticket, c.span, c.reservation, st, none⟩])
    let say := fun (st : ClaimState) (v : Verdict) (bath : Bool) =>
      if s.roster.state = .active then (enter st).post (.rank f.origin) (.verdict c.number v bath) else enter st
    let refused := c.kind = .dip ∧ s.account.state = .synced ∧
      (s.account.balance : Int) - reservations made.claims.table - c.reservation < s.conf.floor
    let crossed := ∃ o ∈ made.claims.table, o.origin = s.own ∧ o.span.overlaps c.span = true ∧
      (o.state = .held ∨ (o.isRequesting = true ∧ ticketEarlier o.ticket o.origin c.ticket f.origin = true))
    (s.claimSound f.origin c.span = true → s.meets c.span = false → takes (enter .noted)) ∧
    (s.claimSound f.origin c.span = true → s.meets c.span = true → refused → takes (say .noted .refuse true)) ∧
    (s.claimSound f.origin c.span = true → s.meets c.span = true → ¬refused → crossed →
      takes (say .deferred .defer false)) ∧
    (s.claimSound f.origin c.span = true → s.meets c.span = true → ¬refused → ¬crossed →
      takes (say .granted .grant false))

/-- A CLAIM whose span is not valid, or whose origin has no reach, raises the ticket counter and is discarded. A
repeated CLAIM is answered with the verdict its entry stands for; nothing is decided again. A new RECOVERY CLAIM is
entered GRANTED without a verdict, and latches CONFLICT over an own HELD claim. The third-claim rule: of two other
entries of the origin the earliest-ticketed goes; of fewer, none. (Which of two with equal tickets goes is the model's
choice, log 50, and so is that a RECOVERY CLAIM keeps the reservation it carries, log 55; that the discarded CLAIM raises
the counter is its reading, log 12.) -/
def Obligations.RepeatedAndRecoveryClaimsAreTaken : Prop :=
  (∀ (s : State) (i : BufferId) (f : Frame) (c : ListedClaim), s.Hears i f → f.payload = .claim c →
     s.claimSound f.origin c.span = false →
     exec .claimTaken s = .next ((((s.heard f).raiseTicket c.ticket).freeRx i).finish)) ∧
  (∀ (s : State) (i : BufferId) (f : Frame) (c : ListedClaim) (e : ClaimEntry), s.Hears i f → f.payload = .claim c →
     s.claimSound f.origin c.span = true → s.entryOf f.origin c.number = some e → e.ticket = c.ticket →
     let u := (s.heard f).raiseTicket c.ticket
     let say := fun (v : Verdict) (bath : Bool) =>
       if s.roster.state = .active then u.post (.rank f.origin) (.verdict c.number v bath) else u
     (e.kind = .recovery → exec .claimTaken s = .next (u.freeRx i).finish) ∧
     (e.kind ≠ .recovery → e.state = .deferred ∨ e.state = .stale .deferred →
       exec .claimTaken s = .next ((say .defer false).freeRx i).finish) ∧
     (e.kind ≠ .recovery → e.state = .granted ∨ e.state = .stale .granted →
       exec .claimTaken s = .next ((say .grant false).freeRx i).finish) ∧
     (e.kind ≠ .recovery → e.state = .noted ∨ e.state = .stale .noted → s.meets e.span = true →
       exec .claimTaken s = .next ((say .refuse true).freeRx i).finish) ∧
     (e.kind ≠ .recovery → e.state = .noted ∨ e.state = .stale .noted → s.meets e.span = false →
       exec .claimTaken s = .next (u.freeRx i).finish)) ∧
  (∀ (s : State) (i : BufferId) (f : Frame) (c : ListedClaim), s.Hears i f → f.payload = .claim c →
      c.kind = .recovery →
     s.claimSound f.origin c.span = true → (∀ e, s.entryOf f.origin c.number = some e → e.ticket ≠ c.ticket) →
     let made := (((s.heard f).raiseTicket c.ticket).setTable
       (thirdClaim f.origin c.number (removeEntry f.origin c.number s.claims.table))).promoteAll
     let u := made.setTable (made.claims.table ++
       [⟨f.origin, c.number, .recovery, c.ticket, c.span, c.reservation, .granted, none⟩])
     (made.ownHeldOverlaps c.span = true →
       exec .claimTaken s = .next ((u.latch .conflict (.recovery f.origin c.number)).freeRx i).finish) ∧
     (made.ownHeldOverlaps c.span = false → exec .claimTaken s = .next (u.freeRx i).finish)) ∧
  (∀ (origin : Rank) (number : BitVec 16) (t : List ClaimEntry),
     let others := t.filter fun e => e.origin == origin && e.number != number
     (others.length < 2 → thirdClaim origin number t = t) ∧
     (∀ a b, others = [a, b] → thirdClaim origin number t =
       t.filter fun e => !(e.origin == origin && e.number == (if a.earlier b then a.number else b.number))))

/-- A VERDICT on an own REQUESTING claim: GRANT takes its sender out of the grant set, DEFER marks it, REFUSE
withdraws the claim and tells its requester; any other VERDICT is ignored. The answer window runs again, and the CLAIM
is posted again while a rank is unanswered. A job told REFUSED waits for the bath; a SHIFT told so waits to ask again
(the model's choice, log 15). A VERDICT to ALL is taken as one to this station (the model's choice, log 51).
An own REQUESTING claim becomes HELD when its grant set is empty and no STALE entry overlaps its span, and not
before, and its requester is told; in a settled state none stands so. `promoteAll` makes the same test as STALE entries
leave the table within an event. A job told HELD, or its SHIFT, stops the claim wait timer. -/
def Obligations.VerdictIsCollected : Prop :=
  (∀ (s : State) (i : BufferId) (f : Frame) (n : BitVec 16) (v : Verdict) (bath : Bool), s.Hears i f →
     f.payload = .verdict n v bath →
     let takes := fun t : State => exec .verdictTaken s = .next (t.freeRx i).finish
     let u := s.heard f
     (∀ e g k w, s.entryOf s.own n = some e → e.state = .requesting g k w → (∃ x ∈ g, x.rank = f.origin) →
       (v = .grant →
         takes (u.setTable (putState s.own n (.requesting (g.filter fun x => x.rank != f.origin) k w) s.claims.table))) ∧
       (v = .defer →
         takes (u.setTable (putState s.own n (.requesting
           (g.map fun x => if x.rank = f.origin then { x with mark := .deferred } else x) k w) s.claims.table))) ∧
       (v = .refuse → takes ((u.endClaim n).tellRefused n))) ∧
     ((∀ e g k w, s.entryOf s.own n = some e → e.state = .requesting g k w → ∀ x ∈ g, x.rank ≠ f.origin) → takes u)) ∧
  (∀ (s : State) (n : BitVec 16) (e : ClaimEntry) (g : List GrantSlot) (k : Nat) (w : Timer),
    s.entryOf s.own n = some e → e.state = .requesting g k w → w.due s.time.clock = true →
    let window : Timer := ⟨s.time.clock, s.conf.answerWindow⟩
    ((∃ x ∈ g, x.mark = .unanswered) →
      exec (.answerWindowExpiry n) s = .next ((s.setTable (putState s.own n
        (.requesting g (if k < 65535 then k + 1 else k) window) s.claims.table)).post .all
          (.claim ⟨e.number, e.kind, e.ticket, e.span, e.reservation⟩))) ∧
    ((∀ x ∈ g, x.mark = .deferred) →
      exec (.answerWindowExpiry n) s =
        .next (s.setTable (putState s.own n (.requesting g k window) s.claims.table)))) ∧
  (∀ (s : State) (n : BitVec 16),
    (s.activeJob = none → s.tellRefused n = s) ∧
    (∀ j, s.activeJob = some j →
      (j.claim = some ⟨n, false⟩ → s.tellRefused n =
        s.updateHead fun k => { k with state := .waitBath, claim := none }) ∧
      (j.claim ≠ some ⟨n, false⟩ → j.shiftClaim = some ⟨n, false⟩ →
        let t := s.updateHead fun k => { k with shiftClaim := none }
        (s.seq.activity = .segment ∧ s.seq.phase = some .negotiating →
          s.tellRefused n = t.setSeq { s.seq with phase := some .waiting }) ∧
        (¬(s.seq.activity = .segment ∧ s.seq.phase = some .negotiating) → s.tellRefused n = t)) ∧
      (j.claim ≠ some ⟨n, false⟩ → j.shiftClaim ≠ some ⟨n, false⟩ → s.tellRefused n = s))) ∧
  (∀ s : State,
     (∀ t, s.promote = some t → ∃ e n w, e ∈ s.claims.table ∧ e.origin = s.own ∧ e.state = .requesting [] n w ∧
       (∀ x ∈ s.claims.table, x.isStale = true → x.span.overlaps e.span = false) ∧
       t = (s.setTable (putState s.own e.number .held s.claims.table)).tellHeld e.number) ∧
     (s.Settled → ∀ e ∈ s.claims.table, ∀ n w, e.origin = s.own → e.state = .requesting [] n w →
       ∃ x ∈ s.claims.table, x.isStale = true ∧ x.span.overlaps e.span = true)) ∧
  (∀ s : State,
     let free := fun e : ClaimEntry => e.origin = s.own ∧ (∃ n w, e.state = .requesting [] n w) ∧
       ∀ x ∈ s.claims.table, x.isStale = true → x.span.overlaps e.span = false
     let turn := fun (e : ClaimEntry) (u : State) =>
       (u.setTable (putState s.own e.number .held u.claims.table)).tellHeld e.number
     ((∀ e ∈ s.claims.table, ¬free e) → s.promoteAll = s) ∧
     (∀ l a m, s.claims.table = l ++ a :: m → free a → (∀ e ∈ l ++ m, ¬free e) → s.promoteAll = turn a s) ∧
     (∀ l a m b r, s.claims.table = l ++ a :: (m ++ b :: r) → free a → free b → (∀ e ∈ l ++ m ++ r, ¬free e) →
       s.promoteAll = turn b (turn a s))) ∧
  (∀ (s : State) (n : BitVec 16),
    (s.activeJob = none → s.tellHeld n = s) ∧
    (∀ j, s.activeJob = some j →
      (j.claim = some ⟨n, false⟩ → s.tellHeld n =
        (s.updateHead fun k => { k with claim := some ⟨n, true⟩ }).setClaimWait none) ∧
      (j.claim ≠ some ⟨n, false⟩ → j.shiftClaim = some ⟨n, false⟩ →
        let t := (s.updateHead fun k => { k with shiftClaim := some ⟨n, true⟩ }).setClaimWait none
        (s.seq.activity = .segment ∧ s.seq.phase = some .negotiating →
          s.tellHeld n = t.setSeq { s.seq with phase := some .held }) ∧
        (¬(s.seq.activity = .segment ∧ s.seq.phase = some .negotiating) → s.tellHeld n = t)) ∧
      (j.claim ≠ some ⟨n, false⟩ → j.shiftClaim ≠ some ⟨n, false⟩ → s.tellHeld n = s)))

/-- A VACATE frame removes the STALE entries of the rank it names, unless that is the receiver's own; the host's
request does the same at the station itself, posts the VACATE and answers how many it removed. (`setTable` carries the
report of R5; that a VACATE which removes no entry reports nothing is the model's choice, log 45.) -/
def Obligations.VacateRemovesStaleEntries : Prop :=
  (∀ (s : State) (i : BufferId) (f : Frame) (r : Rank), s.Hears i f → f.payload = .vacate r →
    (r ≠ s.own → exec .vacateTaken s = .next ((((s.heard f).setTable
      (s.claims.table.filter fun e => !(e.isStale && e.origin == r))).freeRx i).finish)) ∧
    (r = s.own → exec .vacateTaken s = .next ((s.heard f).freeRx i).finish)) ∧
  (∀ (s : State) (n : Nat), s.Listens →
    let w := s.working (.vacate n)
    (s.roster.state ≠ .active → exec (.vacate n) s = .next (w.notActive).finish) ∧
    (s.roster.state = .active → (∀ r : Rank, r.val = n → r = s.own ∨ s.conf.reach[r] = none) →
      exec (.vacate n) s = .next (w.invalid).finish) ∧
    (∀ r : Rank, s.roster.state = .active → r.val = n → r ≠ s.own → s.conf.reach[r] ≠ none →
      exec (.vacate n) s = .next ((((w.setTable
        (s.claims.table.filter fun e => !(e.isStale && e.origin == r))).post .all (.vacate r)).ok
          (.count (s.claims.table.filter fun e => e.isStale && e.origin == r).length)).finish)))

/-- A STATE raises the ticket counter to the largest value it carries, removes every entry of its sender that it does
not list, and takes each listed claim in turn: an unsound one is passed over, one the station knows stands, a new one
is entered without a verdict, GRANTED or NOTED, and a RECOVERY claim over an own HELD claim latches CONFLICT. As STALE
entries leave, R18's test is made. At the end the sender's marks are unanswered again. A JOIN is answered with a STATE
of the station's own claims. (That the discarded claims raise the counter too is the model's reading, log 12; that a
RECOVERY claim that stands STALE and is entered again latches CONFLICT is its choice, log 52, and so are the order of the
claims listed, log 54, and that a listed RECOVERY claim keeps the reservation it carries, log 55.) -/
def Obligations.StateSweepsAndJoinIsAnswered : Prop :=
  (∀ (s : State) (i : BufferId) (f : Frame) (id : Identity) (tickets : Nat) (a : AccountState)
      (claims : List ListedClaim), s.Hears i f → f.payload = .state id tickets a claims →
     let raised := claims.foldl (fun u c => u.raiseTicket c.ticket) ((s.heard f).raiseTicket tickets)
     let kept := s.claims.table.filter fun e => e.origin != f.origin || (claims.map (·.number)).contains e.number
     let entered := claims.foldl (State.enterListed f.origin) (raised.setTable kept).promoteAll
     exec .stateTaken s = .next ((entered.setTable (entered.claims.table.map
       (ClaimEntry.mapGrants (markRank f.origin .unanswered)))).freeRx i).finish) ∧
  (∀ (s : State) (sender : Rank) (c : ListedClaim),
     let stands := ∃ e ∈ s.claims.table,
       e.origin = sender ∧ e.number = c.number ∧ e.ticket = c.ticket ∧ e.isStale = false
     let made := (s.setTable (s.claims.table.filter fun e =>
       !(e.origin == sender && e.number == c.number))).promoteAll
     let enter := fun st : ClaimState => made.setTable
       (made.claims.table ++ [⟨sender, c.number, c.kind, c.ticket, c.span, c.reservation, st, none⟩])
     (s.claimSound sender c.span = false → s.enterListed sender c = s) ∧
     (s.claimSound sender c.span = true → stands → s.enterListed sender c = s) ∧
     (s.claimSound sender c.span = true → ¬stands → c.kind ≠ .recovery →
       s.enterListed sender c = enter (if s.meets c.span then .granted else .noted)) ∧
     (s.claimSound sender c.span = true → ¬stands → c.kind = .recovery →
       ((enter .granted).ownHeldOverlaps c.span = true → s.enterListed sender c =
         (enter .granted).latch .conflict (.recovery sender c.number)) ∧
       ((enter .granted).ownHeldOverlaps c.span = false → s.enterListed sender c = enter .granted))) ∧
  (∀ (s : State) (i : BufferId) (f : Frame) (id : Identity), s.Hears i f → f.payload = .join id →
     exec .joinTaken s = .next ((((s.heard f).post (.rank f.origin)
       (.state s.identityFields s.roster.ticketCounter s.account.state
         ((s.claims.table.filter fun e : ClaimEntry => e.origin == s.own).map fun e : ClaimEntry =>
           (⟨e.number, e.kind, e.ticket, e.span, e.reservation⟩ : ListedClaim)))).freeRx i).finish))

/-- Ending an own claim: a RELEASE posted, the entry removed, and every DEFERRED entry decided again; a number not in
the table changes nothing. A RELEASE taken removes the named entry of its sender in whatever state, and sets the
sender's mark back to unanswered in every grant set; one that names no entry is ignored (log 13).
Re-evaluation takes the DEFERRED entries, and those STALE ones that were, in ticket order. Each is decided by the
verdict rule as the tables and the account then stand, and its VERDICT posted unless it is still deferred or STALE. -/
def Obligations.EndedClaimIsReleasedAndDeferredOnesDecided : Prop :=
  (∀ (s : State) (n : BitVec 16),
     (s.entryOf s.own n = none → s.endClaim n = s) ∧
     ((s.entryOf s.own n).isSome = true →
       s.endClaim n = ((s.post .all (.release n)).setTable
         (s.claims.table.filter fun e => !(e.origin == s.own && e.number == n))).reevaluate)) ∧
  (∀ (s : State) (i : BufferId) (f : Frame) (n : BitVec 16), s.Hears i f → f.payload = .release n →
    ((s.entryOf f.origin n).isSome = true → exec .releaseTaken s = .next ((((s.heard f).setTable
      ((s.claims.table.filter fun e => !(e.origin == f.origin && e.number == n)).map
        (ClaimEntry.mapGrants (markRank f.origin .unanswered)))).freeRx i).finish)) ∧
    (s.entryOf f.origin n = none → exec .releaseTaken s = .next ((s.heard f).freeRx i).finish)) ∧
  (∀ (s : State) (l : List ClaimEntry),
     l.Perm (s.claims.table.filter fun e => e.state == .deferred || e.state == .stale .deferred) →
     l.Pairwise (fun a b => a.earlier b = true) → s.reevaluate = l.foldl State.decideAgain s) ∧
  (∀ (s : State) (e : ClaimEntry),
     let refused := e.kind = .dip ∧ s.account.state = .synced ∧
       (s.account.balance : Int) - reservations s.claims.table < s.conf.floor
     let crossed := ∃ o ∈ s.claims.table, o.origin = s.own ∧ o.span.overlaps e.span = true ∧
       (o.state = .held ∨ (o.isRequesting = true ∧ o.earlier e = true))
     let put := fun c : ClaimState => s.setTable (putState e.origin e.number c s.claims.table)
     let say := fun (c : ClaimState) (v : Verdict) (bath : Bool) =>
       if s.roster.state = .active then (put c).post (.rank e.origin) (.verdict e.number v bath) else put c
     (e.state = .deferred → refused → s.decideAgain e = say .noted .refuse true) ∧
     (e.state = .deferred → ¬refused → crossed → s.decideAgain e = put .deferred) ∧
     (e.state = .deferred → ¬refused → ¬crossed → s.decideAgain e = say .granted .grant false) ∧
     (e.state = .stale .deferred → refused → s.decideAgain e = put (.stale .noted)) ∧
     (e.state = .stale .deferred → ¬refused → crossed → s.decideAgain e = put (.stale .deferred)) ∧
     (e.state = .stale .deferred → ¬refused → ¬crossed → s.decideAgain e = put (.stale .granted)))

/-! ## The account -/

/-- An applied amount: the balance held within its range, a clamp counted with ACCOUNT_EVENT, one more entry since the
checkpoint, the 64th asking for one, and Job Control told of the change. An originated entry takes the own next
sequence and the clock, is applied, retained (of 17 the oldest goes) and posted to ALL; the last sequence is then marked
as used (log 53). The floor test latches BATH
while a job is RUNNING and the balance is below the floor. A DRAW above 16,000,000 g is originated as that much, with
ACCOUNT_EVENT. -/
def Obligations.AmountIsAppliedAndEntryOriginated : Prop :=
  (∀ (s : State) (amount : Int),
     let exact := (s.account.balance : Int) + amount
     let t := s.applyAmount amount
     t = { s with account := t.account, port := t.port, jobs := { s.jobs with retestDue := true } } ∧
     (exact < 0 → t.account.balance = 0) ∧
     (0 ≤ exact → exact ≤ 4294967295 → (t.account.balance : Int) = exact ∧ t.port = s.port ∧
       t.account.clampCount = s.account.clampCount) ∧
     (4294967295 < exact → t.account.balance = 4294967295) ∧
     (exact < 0 ∨ 4294967295 < exact → t.port = { s.port with flags := { s.port.flags with accountEvent := true } } ∧
       t.account.clampCount = if s.account.clampCount < 65535 then s.account.clampCount + 1 else s.account.clampCount) ∧
     (s.account.sinceCheckpoint + 1 < 64 →
       t.account.sinceCheckpoint = s.account.sinceCheckpoint + 1 ∧
       t.account.checkpointPending = s.account.checkpointPending) ∧
     (64 ≤ s.account.sinceCheckpoint + 1 → t.account.sinceCheckpoint = 0 ∧ t.account.checkpointPending = true) ∧
     t.account = { s.account with
       balance := t.account.balance, clampCount := t.account.clampCount
       sinceCheckpoint := t.account.sinceCheckpoint, checkpointPending := t.account.checkpointPending }) ∧
  (∀ (s : State) (kind : EntryKind) (amount : Int) (dipId : Option Nat),
     let e : Entry := ⟨s.own, s.account.ownNext, kind, amount, s.time.clock, dipId⟩
     let t := ((s.setAccount { s.account with
       ownNext := if s.account.ownNext < 4294967295 then s.account.ownNext + 1 else 4294967295
       ownSpent := s.account.ownSpent || s.account.ownNext == 4294967295 }).applyAmount amount).testFloor
     s.originate kind amount dipId =
       (t.setAccount { t.account with
         applied := t.account.applied.set s.own s.account.ownNext
         retained := if t.account.retained.length < 16 then t.account.retained ++ [e]
           else t.account.retained.tail ++ [e] }).post .all
         (.entry s.account.ownNext kind amount s.time.clock dipId)) ∧
  (∀ s : State,
     (s.account.balance < s.conf.floor → s.runningJob ≠ none →
       s.testFloor = s.latch .bath (.balance s.account.balance)) ∧
     (s.conf.floor ≤ s.account.balance ∨ s.runningJob = none → s.testFloor = s)) ∧
  (∀ (s : State) (draw dipId : Nat),
     (draw ≤ 16000000 → s.originateDraw ⟨draw, dipId⟩ = s.originate .draw (-(draw : Int)) (some dipId)) ∧
     (16000000 < draw → s.originateDraw ⟨draw, dipId⟩ =
       (s.raise .accountEvent).originate .draw (-16000000) (some dipId)))

/-- The host's CHARGE, SKIM and ADJUST: refused in the order of their tests, else originated with an ENTRY record made
READY, and answered with the seq and the balance. The host's CHECKPOINT: refused outside ACTIVE and outside SYNCED and
GAPPED, else asked for and placed at once when a buffer counts as FREE and the log is neither FULL nor in FAULT, and
left pending otherwise. -/
def Obligations.HostEntryAndCheckpointAreTested : Prop :=
  (∀ (s : State) (c : Instr) (kind : EntryKind) (amount : Int), s.Listens →
     ((∃ m : Nat, c = .charge m ∧ kind = .charge ∧ amount = m) ∨
       (∃ m : Nat, c = .skim m ∧ kind = .skim ∧ amount = -(m : Int)) ∨ (c = .adjust amount ∧ kind = .adjust)) →
     let w := s.working c
     let range := 1 ≤ amount.natAbs ∧ amount.natAbs ≤ 16000000
     let room := s.log.state ≠ .full ∧ s.log.state ≠ .fault ∧ s.log.freeBuffer ≠ none
     (s.roster.state ≠ .active → exec c s = .next (w.notActive).finish) ∧
     (s.roster.state = .active → ¬range → exec c s = .next (w.invalid).finish) ∧
     (s.roster.state = .active → range → s.account.state = .rebasing → exec c s = .next (w.busy).finish) ∧
     (s.roster.state = .active → range → s.account.state ≠ .rebasing → ¬room → exec c s = .next (w.busy).finish) ∧
     (∀ i, s.roster.state = .active → range → s.account.state ≠ .rebasing → room → s.log.freeBuffer = some i →
       let u := (w.originate kind amount none).placeReady i (.entry s.account.ownNext kind amount)
       exec c s = .next (u.ok (.originated s.account.ownNext u.account.balance)).finish)) ∧
  (∀ s : State, s.Listens →
     let w := s.working .checkpoint
     let asked := w.setAccount { s.account with sinceCheckpoint := 0, checkpointPending := true }
     let room := s.log.state ≠ .full ∧ s.log.state ≠ .fault
     (s.roster.state ≠ .active → exec .checkpoint s = .next (w.notActive).finish) ∧
     (s.roster.state = .active → s.applying = false → exec .checkpoint s = .next (w.busy).finish) ∧
     (∀ i, s.roster.state = .active → s.applying = true → room → s.log.freeBuffer = some i →
       exec .checkpoint s = .next (((w.setAccount { s.account with
         sinceCheckpoint := 0, checkpointPending := false }).placeReady i (.checkpoint s.account.balance s.account.applied
           s.account.ownNext s.roster.ticketCounter)).ok (.checkpointMark true)).finish) ∧
     (s.roster.state = .active → s.applying = true → ¬room ∨ s.log.freeBuffer = none →
       exec .checkpoint s = .next (asked.ok (.checkpointMark false)).finish))

/-- A received ENTRY, by what its seq says of it: next in line it is applied, then the held entries of its origin that
come next in line in turn, then the origin's held duplicates go and its gap record is tested; a duplicate, or an
unsound one, changes nothing; ahead of a gap it is held, the gap is asked for and a SYNCED account is GAPPED; in
STARTING and REBASING it is held. -/
def Obligations.ReceivedEntryGoesByItsSeq : Prop :=
  (∀ (s : State) (i : BufferId) (f : Frame) (e : Entry), s.Hears i f →
    f.payload = .entry e.seq e.kind e.amount e.time e.dipId → e.origin = f.origin →
    let takes := fun t : State => exec .entryTaken s = .next (t.freeRx i).finish
    let u := s.heard f
    let next := s.account.applied[f.origin] + 1
    let held := if s.account.holding.any (fun x => x.origin == e.origin && x.seq == e.seq) ||
      decide (8 ≤ s.account.holding.length) then s.account.holding else s.account.holding ++ [e]
    let gapped := fun t : State => if s.account.state = .synced then t.setAccountState .gapped else t
    let apply := fun (x : Entry) (t : State) => ((t.applyAmount x.amount).setApplied x.origin x.seq).testFloor
    (e.sound = false → takes u) ∧
    (e.sound = true → s.applying = true → e.seq < next → takes u) ∧
    (e.sound = true → s.applying = true → e.seq = next →
      let t := State.chain apply f.origin (apply e u).account.holding.length (apply e u)
      takes ((t.setAccount { t.account with holding := t.account.holding.filter fun x =>
        !(x.origin == f.origin && decide (x.seq ≤ t.account.applied[f.origin])) }).testGap f.origin)) ∧
    (e.sound = true → s.applying = true → next < e.seq → s.account.gaps[f.origin] = none →
      takes (gapped ((u.setAccount { s.account with
        holding := held
        gaps := s.account.gaps.set f.origin (some ⟨e.seq, s.time.clock⟩) }).post (.rank f.origin) (.gap next)))) ∧
    (∀ g, e.sound = true → s.applying = true → next < e.seq → s.account.gaps[f.origin] = some g →
      takes (gapped (u.setAccount { s.account with
        holding := held
        gaps := s.account.gaps.set f.origin (some { g with target := max g.target e.seq }) }))) ∧
    (e.sound = true → s.applying = false → takes (u.setAccount { s.account with holding := held }))) ∧
  (∀ (apply : Entry → State → State) (r : Rank) (s : State) (k : Nat),
    let next := s.account.holding.find? fun x => x.origin == r && x.seq == s.account.applied[r] + 1
    (next = none → State.chain apply r k s = s) ∧
    (∀ e, next = some e → State.chain apply r (k + 1) s = State.chain apply r k (apply e (s.setAccount { s.account with
      holding := s.account.holding.filter fun x => !(x.origin == e.origin && x.seq == e.seq) }))) ∧
    ((∀ e t, (apply e t).account.holding = t.account.holding) →
      let t := State.chain apply r s.account.holding.length s
      ∀ x ∈ t.account.holding, x.origin = r → x.seq ≠ t.account.applied[r] + 1)) ∧
  (∀ (s : State) (r : Rank),
    let closed := match s.account.gaps[r] with
      | some g => if g.target ≤ s.account.applied[r] then none else some g
      | none => none
    let t := s.setAccount { s.account with gaps := s.account.gaps.set r closed }
    let whole := s.account.state = .gapped ∧ (∀ q : Rank, t.account.gaps[q] = none) ∧ s.account.holding = []
    (whole → s.testGap r = t.setAccountState .synced) ∧ (¬whole → s.testGap r = t))

/-- A GAP is answered from the retained list: the entries from the seq asked for, or a GONE naming what is left, or
nothing for a seq that is 0 or has not been originated. (One sent to ALL is answered too, the model's choice, log 51.)
The latest seq originated is the one before the own next sequence, or the last seq once it has been used (the mark
`ownSpent`, the model's reading, log 53). A GONE begins a rebase only when it leaves an open gap unfillable. A rebase
begun: ACCOUNT_EVENT from SYNCED or GAPPED, the next rebase number, every gap record closed, REBASING, a FETCH to the
target if there is one, the fetch timer running; an expiry asks again. -/
def Obligations.GapsAreServedAndRebasesAsk : Prop :=
  (∀ (s : State) (i : BufferId) (f : Frame) (seq : Nat), s.Hears i f → f.payload = .gap seq →
     let takes := fun t : State => exec .gapTaken s = .next (t.freeRx i).finish
     let u := s.heard f
     (seq = 0 ∨ s.latestOwn < seq → takes u) ∧
     (seq ≠ 0 → seq ≤ s.latestOwn → s.account.retained = [] →
       takes (u.post (.rank f.origin) (.gone s.account.ownNext))) ∧
     (∀ oldest rest, seq ≠ 0 → seq ≤ s.latestOwn → s.account.retained = oldest :: rest → seq < oldest.seq →
       takes (u.post (.rank f.origin) (.gone oldest.seq))) ∧
     (∀ oldest rest, seq ≠ 0 → seq ≤ s.latestOwn → s.account.retained = oldest :: rest → oldest.seq ≤ seq →
       takes ((s.account.retained.filter fun e => decide (seq ≤ e.seq)).foldl
         (fun v e => v.post (.rank f.origin) (.entry e.seq e.kind e.amount e.time e.dipId)) u))) ∧
  (∀ s : State,
     (s.account.ownSpent = true → s.latestOwn = 4294967295) ∧
     (s.account.ownSpent = false → s.latestOwn = s.account.ownNext - 1)) ∧
  (∀ (s : State) (i : BufferId) (f : Frame) (seq : Nat), s.Hears i f → f.payload = .gone seq →
     let u := s.heard f
     (s.applying = false ∨ s.account.gaps[f.origin] = none ∨ seq ≤ s.account.applied[f.origin] + 1 →
       exec .goneTaken s = .next (u.freeRx i).finish) ∧
     (s.applying = true → s.account.gaps[f.origin] ≠ none → s.account.applied[f.origin] + 1 < seq →
       exec .goneTaken s = .next ((u.beginRebase none).freeRx i).finish)) ∧
  (∀ (s : State) (split : Option Rank),
    let v := if s.applying then s.raise .accountEvent else s
    let target := split.orElse fun _ => s.syncedPeer
    let u := (v.setAccount { s.account with
      rebaseNumber := s.account.rebaseNumber + 1
      gaps := Vector.replicate 8 none
      state := .rebasing
      fetchTarget := target
      fetchTimer := some ⟨s.time.clock, 500⟩ }).tellAccountChange
    (target = none → s.beginRebase split = u) ∧
    (∀ r, target = some r → s.beginRebase split = u.post (.rank r) (.fetch (s.account.rebaseNumber + 1)))) ∧
  (∀ (s : State) (t : Timer), s.account.fetchTimer = some t → t.due s.time.clock = true →
    let u := s.setAccount { s.account with
      fetchTarget := s.syncedPeer, fetchTimer := some ⟨s.time.clock, 500⟩ }
    (s.syncedPeer = none → exec .fetchTimerExpiry s = .next u) ∧
    (∀ r, s.syncedPeer = some r →
      exec .fetchTimerExpiry s = .next (u.post (.rank r) (.fetch s.account.rebaseNumber))))

/-- A FETCH is answered by a SYNCED station with a SNAPSHOT of its balance and vector, and ignored otherwise; a
station in ISOLATED takes none. -/
def Obligations.FetchIsServedWhenSynced : Prop :=
  (∀ (s : State) (i : BufferId) (f : Frame) (n : BitVec 16), s.Hears i f → f.payload = .fetch n →
    (s.account.state = .synced → exec .fetchTaken s = .next ((((s.heard f).post (.rank f.origin)
      (.snapshot n s.account.balance s.account.applied)).freeRx i).finish)) ∧
    (s.account.state ≠ .synced → exec .fetchTaken s = .next (((s.heard f).freeRx i).finish))) ∧
  (∀ s : State, s.roster.state = .isolated → exec .fetchTaken s = .next s)

/-- A SNAPSHOT is ignored unless it is the present rebase's. Taken, it gives the account the server's balance and
vector; the own entries that the server has not seen are applied again, with ACCOUNT_EVENT when one before them is
lost (with none retained nothing is raised in that step: the model's reading, log 36); the own next sequence stands
past what the server has seen, and is used up when the server has seen the last (log 53); the holding list is worked
through rank by rank (the model's choice, log 22); the account is SYNCED; a deferred DRAW is originated; the floor is
tested and a checkpoint asked for. (That the entries applied again and worked through make no floor test of their own is
the model's reading, log 25.) -/
def Obligations.SnapshotIsTaken : Prop :=
  ∀ (s : State) (i : BufferId) (f : Frame) (n : BitVec 16) (balance : Nat) (applied : Vector Nat 8), s.Hears i f →
    f.payload = .snapshot n balance applied →
    let taken := (s.heard f).setAccount { s.account with
      balance := balance, applied := applied, gaps := Vector.replicate 8 none, fetchTarget := none, fetchTimer := none }
    (s.account.state ≠ .rebasing ∨ n ≠ s.account.rebaseNumber →
      exec .snapshotTaken s = .next ((s.heard f).freeRx i).finish) ∧
    (s.account.state = .rebasing → n = s.account.rebaseNumber → s.account.retained = [] → s.account.holding = [] →
      s.account.deferredDraw = none → s.conf.floor ≤ balance →
      exec .snapshotTaken s = .next ((((taken.setAccount { taken.account with
        ownNext := max s.account.ownNext (min (applied[s.own] + 1) 4294967295)
        ownSpent := s.account.ownSpent || applied[s.own] == 4294967295
        state := .synced
        sinceCheckpoint := 0
        checkpointPending := true }).tellAccountChange).freeRx i).finish)) ∧
    (s.account.state = .rebasing → n = s.account.rebaseNumber →
      let own := s.account.retained.filter fun e => decide (applied[s.own] < e.seq)
      let again := own.foldl (fun u e => (u.applyAmount e.amount).setApplied s.own e.seq)
        (taken.setAccount { taken.account with retained := own })
      let noted := if own.head?.any (fun e => decide (applied[s.own] + 1 < e.seq)) then again.raise .accountEvent
        else again
      let numbered := noted.setAccount { noted.account with
        ownNext := max noted.account.ownNext (min (applied[s.own] + 1) 4294967295)
        ownSpent := noted.account.ownSpent || applied[s.own] == 4294967295 }
      let worked := ([0, 1, 2, 3, 4, 5, 6, 7] : List Rank).foldl (fun u r => State.chain
        (fun e v => (v.applyAmount e.amount).setApplied e.origin e.seq) r u.account.holding.length u) numbered
      let synced := (worked.setAccount { worked.account with holding := [] }).setAccountState .synced
      let drawn := match synced.account.deferredDraw with
        | some d => (synced.setAccount { synced.account with deferredDraw := none }).originateDraw d
        | none => synced
      let tested := drawn.testFloor
      exec .snapshotTaken s = .next (((tested.setAccount { tested.account with
        sinceCheckpoint := 0, checkpointPending := true }).freeRx i).finish))

/-- A BEACON taken: the ticket counter rises; the sender's entries that its census no longer names, and that it made
before the beacon, are swept; then the account's part. The account's part of a BEACON of a live peer: the retained list
trimmed to what every live peer has (by its latest BEACON, and 0 without one), the gap check, the split check. The
split check: equal vectors with unequal balances, both accounts SYNCED or GAPPED, raise ACCOUNT_EVENT, and the higher
rank rebases from the sender. -/
def Obligations.BeaconSweepsAndChecksGapsAndSplit : Prop :=
  (∀ (s : State) (i : BufferId) (f : Frame) (id : Identity) (b : BeaconFields), s.Hears i f →
      f.payload = .beacon id b →
    let u := (s.heard f).raiseTicket b.ticketCounter
    let gone := fun e : ClaimEntry =>
      e.origin == f.origin && !e.isStale && !b.census.contains e.number && decide (e.ticket < b.ticketCounter)
    ((∀ e ∈ s.claims.table, gone e = false) →
      exec .beaconTaken s = .next ((u.accountBeacon f.origin b).freeRx i).finish) ∧
    ((∃ e ∈ s.claims.table, gone e = true) →
      exec .beaconTaken s = .next ((((u.setTable ((s.claims.table.filter fun e => !gone e).map
        (ClaimEntry.mapGrants (markRank f.origin .unanswered)))).accountBeacon f.origin b).freeRx i).finish))) ∧
  (∀ (s : State) (r : Rank) (b : BeaconFields), s.roster.peers[r].live = true →
     let least := leastOf (s.livePeers.map s.peerSeen)
     let u := s.setAccount { s.account with retained := s.account.retained.filter fun e => decide (least < e.seq) }
     let ask := fun target : Nat =>
       (u.setAccount { u.account with gaps := s.account.gaps.set r (some ⟨target, s.time.clock⟩) }).post (.rank r)
         (.gap (s.account.applied[r] + 1))
     let gapped := fun t : State => if s.account.state = .synced then t.setAccountState .gapped else t
     (s.applying = false → s.accountBeacon r b = u) ∧
     (s.applying = true → s.account.gaps[r] = none → b.ownSeq ≤ s.account.applied[r] →
       s.accountBeacon r b = u.splitCheck r b) ∧
     (s.applying = true → s.account.gaps[r] = none → s.account.applied[r] < b.ownSeq →
       s.accountBeacon r b = (gapped (ask b.ownSeq)).splitCheck r b) ∧
     (∀ g, s.applying = true → s.account.gaps[r] = some g → b.ownSeq ≤ s.account.applied[r] →
       s.accountBeacon r b = u.beginRebase none) ∧
     (∀ g, s.applying = true → s.account.gaps[r] = some g → s.account.applied[r] < b.ownSeq →
       s.conf.beaconPeriod ≤ (s.time.clock - g.lastRequest).toNat →
       s.accountBeacon r b = (ask (max g.target b.ownSeq)).splitCheck r b) ∧
     (∀ g, s.applying = true → s.account.gaps[r] = some g → s.account.applied[r] < b.ownSeq →
       (s.time.clock - g.lastRequest).toNat < s.conf.beaconPeriod →
       s.accountBeacon r b = (u.setAccount { u.account with
         gaps := s.account.gaps.set r (some { g with target := max g.target b.ownSeq }) }).splitCheck r b)) ∧
  (∀ s : State,
     let peer := fun r : Rank => r ≠ s.own ∧ s.roster.peers[r].live = true
     let least := leastOf (s.livePeers.map s.peerSeen)
     (∀ r, r ∈ s.livePeers ↔ peer r) ∧
     (∀ r b, s.roster.peers[r].beacon = some b → s.peerSeen r = b.applied[s.own]) ∧
     (∀ r, s.roster.peers[r].beacon = none → s.peerSeen r = 0) ∧
     (∀ r, peer r → least ≤ s.peerSeen r) ∧
     ((∃ r, peer r) → ∃ r, peer r ∧ least = s.peerSeen r)) ∧
  (∀ (s : State) (r : Rank) (b : BeaconFields),
     let split := s.applying = true ∧ (b.account = .synced ∨ b.account = .gapped) ∧ b.applied = s.account.applied ∧
       b.balance ≠ s.account.balance
     (¬split → s.splitCheck r b = s) ∧
     (split → r < s.own → s.splitCheck r b = (s.raise .accountEvent).beginRebase (some r)) ∧
     (split → ¬ r < s.own → s.splitCheck r b = s.raise .accountEvent))

/-! ## Holds -/

/-- A hold cause, by its class and what stands: absorbed, already pending, discarded, left pending behind a higher
class, or entered, with FREEZE or LIFT as the class has it. In general: a cause that is taken joins the pending set, the
entry test enters the highest pending class when it outranks the top, and the tests of R89 and R90 follow (`testCancel`,
which CancelIsCarriedOutAndContextRestored states). A class that enters while a job is RUNNING is written into its DIP
record, four at most. A LIFT that enters over a lift under way takes its place and keeps its marks. (That a PAUSE over an
end lift enters and is discarded at once, and the lift issued again, is the model's reading, log 17; so is ABORTED_BATH
for every BATH that enters after the cancel lift was carried out.) The context an entry saves: in a segment its index, the
time its timer has left and the repeat stack; elsewhere the activity alone. (That a timer already suspended is saved too
is the model's choice, log 49. That a lift leaves no MOVE of the segment present, `forget`, is its reading, log 16.) -/
def Obligations.HoldCauseEntersByItsClass : Prop :=
  (∀ (s : State) (c : HoldClass) (k : HoldCause),
    let now := s.time.clock
    let flagged := { s.port with flags := { s.port.flags with holdChange := true } }
    let outranks := ∀ e rest, s.holds.stack = e :: rest → c.code < e.cls.code
    let entered : List HoldEntry := ⟨c, now, k, s.context⟩ :: s.holds.stack
    let endLift := s.seq.activity = .lift ∧ s.seq.liftFor = some .endLift
    (s.standing c = true ∨ s.isPending c = true → s.latch c k = s) ∧
    (c = .program ∨ c = .bath → s.runningJob = none ∨ (∃ j, s.runningJob = some j ∧ j.abort ≠ none) →
      s.latch c k = s) ∧
    (s.standing c = false → s.isPending c = false →
      (c = .program ∨ c = .bath → ∃ j, s.runningJob = some j ∧ j.abort = none) →
      let posted : State :=
        { s with holds := { s.holds with pending := s.holds.pending ++ [⟨c, k, now⟩] }, port := flagged }
      s.latch c k = posted.enterPending.testCancel ∧
      (s.holds.pending = [] → s.runningJob.any (·.cancelPending) = false → ¬outranks → s.latch c k = posted)) ∧
    (s.holds.pending = [] → s.standing c = false → s.runningJob.any (·.cancelPending) = false →
      c = .stop ∨ c = .drive ∨ c = .conflict ∨ (c = .pause ∧ ¬endLift) →
      (outranks →
        let t := s.latch c k
        t = { s with holds := t.holds, drive := t.drive, seq := t.seq, log := t.log, port := flagged } ∧
        t.holds.stack = entered ∧ t.holds.pending = [] ∧ t.holds.mask = s.holds.mask ∧
        (∀ ch, t.channel ch = { s.channel ch with waiting := some .stop }) ∧
        (s.seq.hostLift ≠ .lifting → t.seq = { s.seq with timer := match s.seq.timer with
          | .running u => .suspended (u.length - (now - u.start).toNat)
          | x => x }) ∧
        (s.seq.hostLift = .lifting → t.seq.hostLift = .ended ∧ t.seq.activity = .idle) ∧
        t.log = (s.recordHold c).log ∧ t.holds.recorded = (s.recordHold c).holds.recorded)) ∧
    (c = .pause → endLift → s.holds.stack = [] → s.holds.pending = [] → s.seq.hostLift ≠ .lifting →
      s.runningJob.any (·.cancelPending) = false →
      let t := s.latch c k
      let lift : Option DriveCommand := some (.move s.conf.clear s.conf.liftSpeed)
      t.holds.stack = [] ∧ t.holds.pending = [] ∧ t.port = flagged ∧
      t.seq.activity = .lift ∧ t.seq.liftFor = some .endLift ∧
      (t.channel .lead).waiting = (if s.seq.arrivedLead then some .stop else lift) ∧
      (t.channel .trail).waiting = (if s.seq.arrivedTrail then some .stop else lift) ∧
      (t.channel .travel).waiting = some .stop ∧ t.jobs = s.jobs ∧ t.log = (s.recordHold c).log) ∧
    (∀ j, s.holds.pending = [] → s.standing c = false → s.runningJob = some j → j.cancelPending = false →
      j.abort = none → c = .program ∨ c = .bath → s.seq.activity ≠ .lift → outranks →
        let t := s.latch c k
        t.holds.stack = entered.map (fun e => { e with context := { e.context with isVoid := true } }) ∧
        t.holds.pending = [] ∧ t.port = flagged ∧
        t.jobs.list.head? = some { j with abort := some (if c = .bath then .bath else .program) } ∧
        t.seq.activity = .lift ∧ t.seq.liftFor = some .hold ∧ t.seq.timer = .stopped ∧
        (t.channel .lead).waiting = some (.move s.conf.clear s.conf.liftSpeed) ∧
        (t.channel .trail).waiting = some (.move s.conf.clear s.conf.liftSpeed) ∧
        ((s.channel .travel).moveInFlight = true → (t.channel .travel).waiting = some .stop) ∧
        ((s.channel .travel).moveInFlight = false → t.channel .travel = (s.channel .travel).forget) ∧
        t.claims = s.claims ∧ t.account = s.account ∧ t.link = s.link ∧ t.roster = s.roster ∧ t.time = s.time)) ∧
  (∀ s : State,
    (s.holds.pending = [] → s.enterPending = s) ∧
    (∀ l p r, s.holds.pending = l ++ p :: r → (∀ q ∈ l ++ r, p.cls.code < q.cls.code) →
      ((∀ e rest, s.holds.stack = e :: rest → p.cls.code < e.cls.code) → s.enterPending = s.enterHold p) ∧
      (∀ e rest, s.holds.stack = e :: rest → e.cls.code ≤ p.cls.code → s.enterPending = s))) ∧
  (∀ (s : State) (p : PendingHold),
    let t := s.enterHold p
    let now := s.time.clock
    let entered : List HoldEntry := ⟨p.cls, now, p.cause, s.context⟩ :: s.holds.stack
    let lift : Option DriveCommand := some (.move s.conf.clear s.conf.liftSpeed)
    let recorded := s.recordHold p.cls
    t.port = { s.port with flags := { s.port.flags with holdChange := true } } ∧
    t.holds.mask = s.holds.mask ∧ t.holds.recorded = recorded.holds.recorded ∧
    (p.cls ≠ .program → p.cls ≠ .bath →
      t = { s with holds := t.holds, drive := t.drive, seq := t.seq, log := recorded.log, port := t.port } ∧
      t.holds.stack = entered ∧ t.holds.pending = s.holds.pending.filter (fun q => q.cls != p.cls) ∧
      (∀ ch, t.channel ch = { s.channel ch with waiting := some .stop }) ∧
      (s.seq.hostLift ≠ .lifting → t.seq = { s.seq with timer := match s.seq.timer with
        | .running u => .suspended (u.length - (now - u.start).toNat)
        | x => x }) ∧
      (s.seq.hostLift = .lifting → t.seq.hostLift = .ended ∧ t.seq.activity = .idle)) ∧
    (∀ j rest, p.cls = .program ∨ p.cls = .bath → s.jobs.list = j :: rest → j.state = .running →
      t = { s with holds := t.holds, drive := t.drive, seq := t.seq, jobs := t.jobs, log := t.log, port := t.port } ∧
      t.holds.stack = entered.map (fun e => { e with context := { e.context with isVoid := true } }) ∧
      t.holds.pending = s.holds.pending.filter (fun q => q.cls != .program && q.cls != .bath) ∧
      t.jobs.list = { j with abort := some (j.abort.getD (if p.cls = .bath then .bath else .program)) } :: rest ∧
      t.log = (if p.cls = .bath ∧ j.cancelLift = true then
        recorded.updateFlags fun f => { f with abortedBath := true } else recorded).log ∧
      t.seq.activity = .lift ∧ t.seq.liftFor = some .hold ∧ t.seq.phase = none ∧ t.seq.timer = .stopped ∧
      (s.seq.activity = .lift → t.seq.arrivedLead = s.seq.arrivedLead ∧ t.seq.arrivedTrail = s.seq.arrivedTrail ∧
        (t.channel .lead).waiting = (if s.seq.arrivedLead then (s.channel .lead).waiting else lift) ∧
        (t.channel .trail).waiting = (if s.seq.arrivedTrail then (s.channel .trail).waiting else lift)) ∧
      (s.seq.activity ≠ .lift → t.seq.arrivedLead = false ∧ t.seq.arrivedTrail = false ∧
        (t.channel .lead).waiting = lift ∧ (t.channel .trail).waiting = lift) ∧
      ((s.channel .travel).moveInFlight = true → (t.channel .travel).waiting = some .stop) ∧
      ((s.channel .travel).moveInFlight = false → t.channel .travel =
        if s.seq.activity = .lift then s.channel .travel else (s.channel .travel).forget))) ∧
  (∀ (s : State) (c : HoldClass),
    (s.runningJob = none ∨ 4 ≤ s.holds.recorded → s.recordHold c = s) ∧
    (s.runningJob ≠ none → s.holds.recorded < 4 → s.recordHold c =
      { s.updateRecord (fun d => { d with holds := d.holds ++ [⟨c, s.time.clock⟩] }) with
        holds := { s.holds with recorded := s.holds.recorded + 1 } })) ∧
  (∀ s : State,
    (s.seq.activity = .segment → s.context = ⟨.segment, s.seq.index,
      match s.seq.timer with
        | .stopped => none
        | .running u => some (u.length - (s.time.clock - u.start).toNat)
        | .suspended left => some left,
      s.seq.loops, false⟩) ∧
    (s.seq.activity ≠ .segment → s.context = ⟨s.seq.activity, none, none, [], false⟩))

/-- PAUSE latches PAUSE and answers its disposition. RESUME acts on the top entry: refused for its reason, or the
entry removed, its mask added, a pending class entered, and then a waiting cancel carried out, a PAUSE taken off an end
lift, the FREEZE below kept, the LIFT below issued again, or the context restored. (That the answer names the top after
the reactions of the removal, `settle`, is the model's reading, log 41; that a PAUSE left alone is taken off an end lift
is its reading, log 17.) LIFT_CLEAR: refused in the order of its tests, else a lift of both hooks to the clear height for
the host, and no MOVE asked for before it is present any more (the model's reading, log 16). -/
def Obligations.PauseResumeAndLiftClearAct : Prop :=
  ((∀ s : State, s.Listens →
     exec .pause s = .next (((s.working .pause).latch .pause .host).ok (.disposition
       (if s.standing .pause then .absorbed else if s.holds.stack.isEmpty then .entered else .pending))).finish) ∧
   (∀ s : State, s.Listens → s.holds.stack = [] →
     exec .resume s = .next ((s.working .resume).refuse .noHold).finish) ∧
   (∀ (s : State) (e : HoldEntry) (rest : List HoldEntry), s.Listens → s.holds.stack = e :: rest →
     let w := s.working .resume
     let ready := s.drive.lead.ready = true ∧ s.drive.trail.ready = true ∧ s.drive.travel.ready = true
     (e.cls = .program ∨ e.cls = .bath → exec .resume s = .next (w.refuse .lifting).finish) ∧
     (e.cls = .stop → s.pins.stop = true → exec .resume s = .next (w.refuse .stopAsserted).finish) ∧
     (e.cls = .drive → ¬ready → exec .resume s = .next (w.refuse .driveNotReady).finish) ∧
     ((e.cls = .stop ∧ s.pins.stop = false) ∨ (e.cls = .drive ∧ ready) ∨ e.cls = .conflict ∨ e.cls = .pause →
       let u := (w.setHolds { s.holds with
         stack := rest
         mask := { s.holds.mask with fast := s.holds.mask.fast || e.cls != .pause } }).raise .holdChange
       let answered := fun t : State =>
         exec .resume s = .next (t.settle.ok (.resumed e.cls (t.settle.holds.stack.head?.map (·.cls)))).finish
       let v := u.enterPending
       (v.cancelReady = true → answered v.carryOutCancel) ∧
       (v.cancelReady = false → v.endLiftPaused = true → answered v.freeEndLift) ∧
       (v.cancelReady = false → v.endLiftPaused = false → v.holds.stack = [] →
         answered (v.restoreContext e.context)) ∧
       (∀ d below, v.cancelReady = false → v.endLiftPaused = false → v.holds.stack = d :: below →
         d.cls.isFreeze = true ∨ v.holds.stack ≠ rest → answered v) ∧
       (∀ d below, v.cancelReady = false → v.endLiftPaused = false → v.holds.stack = d :: below →
         d.cls.isFreeze = false → v.holds.stack = rest → answered v.postLiftMoves) ∧
       (s.holds.pending = [] → v = u)))) ∧
  (∀ s : State, s.Listens →
     let w := s.working .liftClear
     let on := s.roster.state = .listening ∨ s.roster.state = .active ∨ s.roster.state = .isolated
     let free := ∀ j rest, s.jobs.list = j :: rest → j.state = .queued
     (¬on → exec .liftClear s = .next (w.notActive).finish) ∧
     (on → s.roster.config = none → exec .liftClear s = .next (w.refuse .noConfig).finish) ∧
     (on → s.roster.config ≠ none → ¬free → exec .liftClear s = .next (w.busy).finish) ∧
     (on → s.roster.config ≠ none → free → s.holds.stack ≠ [] →
       exec .liftClear s = .next (w.refuse .holdStanding).finish) ∧
     (on → s.roster.config ≠ none → free → s.holds.stack = [] → s.seq.hostLift = .lifting →
       exec .liftClear s = .next (w.busy).finish) ∧
     (on → s.roster.config ≠ none → free → s.holds.stack = [] → s.seq.hostLift ≠ .lifting →
       let lift := DriveCommand.move s.conf.clear s.conf.liftSpeed
       exec .liftClear s = .next ((((((w.setSeq { s.seq with
         arrivedLead := false, arrivedTrail := false, arrivedTravel := false
         activity := .lift, liftFor := some .host, hostLift := .lifting }).forgetMoves).postCommand .lead
           lift).postCommand .trail lift).ok .empty).finish)))

/-- A cancel that waits is carried out when the stack holds nothing, or a PAUSE, which is discarded: segment and repeat
stack abandoned, the cancel lift issued, or its motion continued. A PAUSE alone over an end lift is taken off it (the
model's reading, log 17, as is that the motion of a cancel lift goes on). When the stack has emptied, the context is
restored: a HOIST's and a SHIFT's MOVEs issued again where no mark is set, a timer run on with what it has left, a lift's
MOVEs issued again; and a MOVE below the clear height only over an own HELD span, of a DIP or SHIFT claim, that holds the
current cell. -/
def Obligations.CancelIsCarriedOutAndContextRestored : Prop :=
  (∀ s : State,
    let waits := ∃ j, s.runningJob = some j ∧ j.cancelPending = true
    let onlyPause := s.holds.stack = [] ∨ ∃ e, s.holds.stack = [e] ∧ e.cls = .pause
    let paused := s.seq.activity = .lift ∧ s.seq.liftFor = some .endLift ∧
      ∃ e, s.holds.stack = [e] ∧ e.cls = .pause
    let bare := (s.setHolds { s.holds with stack := [] }).raise .holdChange
    let lifts := fun t : State =>
      ((t.runningJob.any (·.cancelLift) = true → t.seq.activity = .lift → s.carryOutCancel = t.postLiftMoves) ∧
      (t.runningJob.any (·.cancelLift) = true → t.seq.activity = .weighAfterLift → s.carryOutCancel = t.resumeTimer) ∧
      (t.runningJob.any (·.cancelLift) = true → t.seq.activity ≠ .lift → t.seq.activity ≠ .weighAfterLift →
        s.carryOutCancel = t) ∧
      (t.runningJob.any (·.cancelLift) = false →
        let u := (t.updateHead fun j => { j with cancelLift := true }).beginLift .cancel false
        s.carryOutCancel = u.setSeq { u.seq with loops := [] }))
    (waits → onlyPause → s.testCancel = s.carryOutCancel) ∧
    (¬(waits ∧ onlyPause) → paused → s.testCancel = bare.postLiftMoves) ∧
    (¬(waits ∧ onlyPause) → ¬paused → s.testCancel = s) ∧
    (s.holds.stack = [] → lifts s) ∧
    (∀ e, s.holds.stack = [e] → e.cls = .pause → lifts bare)) ∧
  (∀ (s : State) (c : SavedContext),
    let t := if c.activity = .segment ∧ c.isVoid = false then s.setSeq { s.seq with
      index := c.index, loops := c.loops
      timer := match c.remaining with
        | some r => .suspended r
        | none => s.seq.timer } else s
    (∀ g lead trail v, s.seq.activity = .segment → t.segment = some g → g.kind = .hoist lead trail v →
      t.seq.phase = some .moving → s.restoreContext c = t.issueHoist lead trail v g.modes) ∧
    (∀ g sp, s.seq.activity = .segment → t.segment = some g → g.kind = .shift sp → t.seq.phase = some .travelling →
      (t.seq.arrivedTravel = true → s.restoreContext c = t) ∧
      (t.seq.arrivedTravel = false → s.restoreContext c = t.issueTravel sp)) ∧
    (∀ g, s.seq.activity = .segment → t.segment = some g →
      (∀ lead trail v, g.kind = .hoist lead trail v → t.seq.phase ≠ some .moving) →
      (∀ sp, g.kind = .shift sp → t.seq.phase ≠ some .travelling) → s.restoreContext c = t.resumeTimer) ∧
    (s.seq.activity = .segment → t.segment = none → s.restoreContext c = t) ∧
    (s.seq.activity = .lift → s.restoreContext c = s.postLiftMoves) ∧
    (s.seq.activity = .weighAfterLift → s.restoreContext c = s.resumeTimer) ∧
    (s.seq.activity = .stopped ∨ s.seq.activity = .idle → s.restoreContext c = s)) ∧
  (∀ s : State,
    (∀ r, s.seq.timer = .suspended r →
      s.resumeTimer = s.setSeq { s.seq with timer := .running ⟨s.time.clock, r⟩ }) ∧
    ((∀ r, s.seq.timer ≠ .suspended r) → s.resumeTimer = s)) ∧
  (∀ (s : State) (lead trail : Int) (v : Nat) (m : Modes),
    let speed := if m.fast = true ∧ s.holds.mask.fast = false then v else min v s.conf.slowSpeed
    let lowers := (s.seq.arrivedLead = false ∧ lead < s.conf.clear) ∨
      (s.seq.arrivedTrail = false ∧ trail < s.conf.clear)
    (lowers → s.mayLower = false → s.issueHoist lead trail v m = s.programFault .offSpan) ∧
    (¬lowers ∨ s.mayLower = true →
      let t := if s.seq.arrivedLead then s else s.postCommand .lead (.move lead speed)
      s.issueHoist lead trail v m = if s.seq.arrivedTrail then t else t.postCommand .trail (.move trail speed))) ∧
  (∀ s : State, s.mayLower = true ↔ ∃ cell, s.currentCell = some cell ∧ ∃ e ∈ s.claims.table, e.origin = s.own ∧
    e.state = .held ∧ (e.kind = .dip ∨ e.kind = .shift) ∧ e.span.first ≤ cell ∧ cell ≤ e.span.last)

/-- A lift begun: the active segment abandoned, the travel stopped, both hooks moved to the clear height; a lift that
takes the place of one under way (`keep`) keeps its marks, and moves the hooks that have not arrived. A lift that
both hoists have carried out, with no FREEZE over it, ends for its requester: a hold's entry is removed and its job
weighs or closes, a cancel's job weighs or closes, an end lift's job closes, the host's tests the RECOVERY claim. A
program that ends with both hooks clear closes its job, and is lifted otherwise. The weighing after a lift starts when
no MOVE is in flight, suspended while a FREEZE stands. (That the end lift's job closes with no weighing is the model's
reading, log 42, and so is that no MOVE asked for before a lift is present in it, log 16.) -/
def Obligations.LiftsAndWeighingsEndByTheirRequester : Prop :=
  (∀ (s : State) (who : LiftFor) (keep : Bool),
    let t := s.beginLift who keep
    let lift : Option DriveCommand := some (.move s.conf.clear s.conf.liftSpeed)
    t = { s with seq := t.seq, drive := t.drive, jobs := t.jobs } ∧
    t.seq.activity = .lift ∧ t.seq.liftFor = some who ∧ t.seq.phase = none ∧ t.seq.timer = .stopped ∧
    t.seq.arrivedLead = (keep && s.seq.arrivedLead) ∧ t.seq.arrivedTrail = (keep && s.seq.arrivedTrail) ∧
    t.seq.arrivedTravel = (keep && s.seq.arrivedTravel) ∧
    t.seq.loops = s.seq.loops ∧ t.seq.drainTotal = min (s.seq.drainTotal + s.drainCounted) 4294967295 ∧
    t.jobs = { s.jobs with claimWait := t.jobs.claimWait } ∧
    ((∃ sp, s.activeKind = some (.shift sp)) → t.jobs.claimWait = none) ∧
    ((∀ sp, s.activeKind ≠ some (.shift sp)) → t.jobs.claimWait = s.jobs.claimWait) ∧
    (t.channel .lead).waiting = (if keep && s.seq.arrivedLead then (s.channel .lead).waiting else lift) ∧
    (t.channel .trail).waiting = (if keep && s.seq.arrivedTrail then (s.channel .trail).waiting else lift) ∧
    ((s.channel .travel).moveInFlight = true → (t.channel .travel).waiting = some .stop) ∧
    ((s.channel .travel).moveInFlight = false → t.channel .travel =
      if keep then s.channel .travel else (s.channel .travel).forget) ∧
    (∀ ch, (t.channel ch).inFlight = (if keep then s.channel ch else (s.channel ch).forget).inFlight)) ∧
  (∀ s : State, s.seq.activity = .lift → s.seq.arrivedLead = true → s.seq.arrivedTrail = true →
    (∀ e rest, s.holds.stack = e :: rest → e.cls.isFreeze = false) →
    let ends := fun t : State => s.advanceOnce = some t
    (∀ e rest, s.seq.liftFor = some .hold → s.holds.stack = e :: rest →
      let t := (((s.setSeq { s.seq with liftFor := none }).setHolds { s.holds with stack := rest }).raise
        .holdChange).enterPending
      (t.runningJob.any (·.cancelPending) = false → ends t.weighOrClose) ∧
      (t.runningJob.any (·.cancelPending) = true → ends t.discardPause.weighOrClose)) ∧
    (s.seq.liftFor = some .hold → s.holds.stack = [] → ends s.weighOrClose) ∧
    (s.seq.liftFor = some .cancel → ends s.weighOrClose) ∧
    (s.seq.liftFor = some .endLift → ends s.closeJob) ∧
    (s.seq.liftFor = some .host → ends ((s.setSeq { s.seq with
      hostLift := .done, activity := .idle, liftFor := none, phase := none }).endRecovery))) ∧
  (∀ s : State,
    (∀ j, s.runningJob = some j → j.dry ≠ none → s.weighOrClose = s.setSeq { s.seq with
      activity := .weighAfterLift, phase := some .settling, liftFor := none }) ∧
    ((∀ j, s.runningJob = some j → j.dry = none) → s.weighOrClose = s.closeJob) ∧
    (∀ e rest, s.holds.stack = e :: rest → e.cls = .pause →
      s.discardPause = (s.setHolds { s.holds with stack := rest }).raise .holdChange) ∧
    ((∀ e rest, s.holds.stack = e :: rest → e.cls ≠ .pause) → s.discardPause = s) ∧
    (s.bothClear = true → s.endProgram = s.closeJob) ∧
    (s.bothClear = false →
      s.endProgram = (s.updateFlags fun f => { f with endLift := true }).beginLift .endLift false)) ∧
  (∀ s : State, s.seq.activity = .weighAfterLift →
    let moves := (s.channel .lead).moveInFlight = true ∨ (s.channel .trail).moveInFlight = true ∨
      (s.channel .travel).moveInFlight = true
    let starts := fun t : SegTimer =>
      s.advanceOnce = some (s.setSeq { s.seq with timer := t, phase := some .timing })
    (moves ∨ s.seq.phase ≠ some .settling → s.advanceSequencer = none) ∧
    (s.seq.phase = some .settling → ¬moves → s.frozen = true → starts (.suspended 2000)) ∧
    (s.seq.phase = some .settling → ¬moves → s.frozen = false → starts (.running ⟨s.time.clock, 2000⟩)))

/-! ## Jobs and programs -/

/-- SUBMIT_JOB: refused in the order of its tests, else appended in QUEUED and answered with its place. CANCEL_JOB: an
unknown tag refused, a QUEUED job removed, a waiting or claiming one removed with its claim ended, a running one
marked. -/
def Obligations.JobsAreSubmittedAndCancelled : Prop :=
  (∀ (s : State) (tag : BitVec 16) (slot first last draw limit : Nat), s.Listens →
    let c := Instr.submitJob tag slot first last draw limit
    let w := s.working c
    let active := s.roster.state = .active
    let ranges := slot < 8 ∧ first ≤ last ∧ last < s.conf.cells ∧ draw ≤ 16000000 ∧ 1 ≤ limit ∧ limit ≤ 3600
    let reach := ∃ r, s.conf.reach[s.own] = some r ∧ r.first ≤ first ∧ last ≤ r.last
    let program := s.program slot ≠ []
    let fresh := ∀ j ∈ s.jobs.list, j.tag ≠ tag
    (¬active → exec c s = .next (w.notActive).finish) ∧
    (active → ¬ranges → exec c s = .next (w.invalid).finish) ∧
    (active → ranges → ¬reach → exec c s = .next (w.refuse .outOfReach).finish) ∧
    (active → ranges → reach → ¬program → exec c s = .next (w.refuse .noProgram).finish) ∧
    (active → ranges → reach → program → ¬fresh → exec c s = .next (w.refuse .duplicateTag).finish) ∧
    (active → ranges → reach → program → fresh → 4 ≤ s.jobs.list.length → exec c s = .next (w.busy).finish) ∧
    (active → ranges → reach → program → fresh → s.jobs.list.length < 4 →
      exec c s = .next ((({ w with jobs := { s.jobs with list := s.jobs.list ++
        [⟨tag, slot, ⟨first, last⟩, draw, limit, .queued, none, none, none, none, false, false, none, none, false⟩] } }
          : State).ok (.place (s.jobs.list.length + 1))).finish))) ∧
  (∀ (s : State) (tag : BitVec 16), s.Listens →
    let w := s.working (.cancelJob tag)
    let cancels := fun t : State => exec (.cancelJob tag) s = .next (t.ok .empty).finish
    (s.jobs.list.find? (·.tag == tag) = none →
      exec (.cancelJob tag) s = .next (w.refuse .unknownTag).finish) ∧
    (∀ j, s.jobs.list.find? (·.tag == tag) = some j →
      (j.state = .queued ∨ j.state = .waitCells ∨ j.state = .waitBath → cancels (w.endEarly j .cancelled none)) ∧
      (∀ n held, j.state = .claiming → j.claim = some ⟨n, held⟩ →
        cancels ((w.endClaim n).endEarly j .cancelled none)) ∧
      (j.state = .running → j.cancelPending = true → cancels w) ∧
      (j.state = .running → j.cancelPending = false →
        cancels (w.updateHead fun k => { k with cancelPending := true }).testCancel) ∧
      (j.state = .closing → exec (.cancelJob tag) s = .next (w.busy).finish)))

/-- A job that ends before RUNNING leaves the list with its timer and its buffer call, and writes the last result with
draw 0 and no dip id; RESULT_LOST is raised when the one before it was not read. When the claim wait runs out, a
waiting or claiming job ends FAILED with its claim withdrawn, and a running one whose SHIFT waits closes with its mark
set and its SHIFT claim withdrawn. -/
def Obligations.EarlyEndAndClaimWait : Prop :=
  (∀ (s : State) (j : Job) (r : JobResult) (why : Option FailReason),
     let t := s.endEarly j r why
     t = { s with jobs := t.jobs, log := t.log, port := t.port } ∧
     t.jobs.list = s.jobs.list.filter (fun k => k.tag != j.tag) ∧
     t.jobs.lastResult = some ⟨j.tag, none, r, why, 0, none, false⟩ ∧ t.jobs.nextDipId = s.jobs.nextDipId ∧
     (j.state ≠ .queued → t.jobs.claimWait = none ∧ t.log = { s.log with call := none }) ∧
     (j.state = .queued → t.jobs.claimWait = s.jobs.claimWait ∧ t.log = s.log) ∧
     t.port = { s.port with flags := { s.port.flags with
       jobEnd := true, resultLost := s.port.flags.resultLost || s.jobs.lastResult.any fun o => !o.read } }) ∧
  (∀ (s : State) (t : Timer) (j : Job) (rest : List Job), s.jobs.claimWait = some t → t.due s.time.clock = true →
     s.jobs.list = j :: rest →
     let u := s.setClaimWait none
     let fails := fun v : State => exec .claimWaitExpiry s = .next (v.endEarly j .failed (some .claimTimeout)).finish
     let closes := fun v : State =>
       exec .claimWaitExpiry s = .next ((v.updateHead fun k => { k with shiftTimedOut := true }).closeJob).finish
     (j.state = .waitCells ∨ j.state = .waitBath → fails u) ∧
     (∀ n held, j.state = .claiming → j.claim = some ⟨n, held⟩ → fails (u.endClaim n)) ∧
     (∀ n held, j.state = .running → j.shiftClaim = some ⟨n, held⟩ →
       closes ((u.endClaim n).updateHead fun k => { k with shiftClaim := none })) ∧
     (j.state = .running → j.shiftClaim = none → closes u))

/-- The head job leaves QUEUED on a quiet station with a program and a FREE buffer, and not otherwise: the buffer call,
the claim wait timer, then the bath test and the claim. A job whose claim is HELD starts when no hold stands and no host
lift is under way: RUNNING over its span, with a new DIP record, FAILED outside it. A buffer counts as FREE when it is
FREE and not called; A is taken before B. -/
def Obligations.HeadJobIsAdmittedAndStarted : Prop :=
  (∀ s : State,
    let free := fun i => s.log.buffer i = .free ∧ s.log.call ≠ some i
    (s.jobs.list = [] → s.admitHead = none ∧ s.startJob = none) ∧
    (free .a → s.log.freeBuffer = some .a) ∧ (¬free .a → free .b → s.log.freeBuffer = some .b) ∧
    (¬free .a → ¬free .b → s.log.freeBuffer = none)) ∧
  ∀ (s : State) (j : Job) (rest : List Job), s.jobs.list = j :: rest →
    (j.state ≠ .queued ∨ s.roster.state ≠ .active ∨ s.holds.stack ≠ [] ∨ s.holds.pending ≠ [] ∨
      (∃ e ∈ s.claims.table, e.kind = .recovery) ∨ s.account.state ≠ .synced ∨ s.log.freeBuffer = none ∨
      s.program j.slot = [] → s.admitHead = none) ∧
    (∀ i, j.state = .queued → s.roster.state = .active → s.holds.stack = [] → s.holds.pending = [] →
      (∀ e ∈ s.claims.table, e.kind ≠ .recovery) → s.account.state = .synced → s.log.freeBuffer = some i →
      s.program j.slot ≠ [] →
      let u := (s.setLog { s.log with call := some i }).setClaimWait (some ⟨s.time.clock, j.waitLimit * 1000⟩)
      ((s.conf.floor : Int) ≤ s.account.balance - reservations s.claims.table - j.draw →
        s.admitHead = some (u.askJobClaim j)) ∧
      ((s.account.balance : Int) - reservations s.claims.table - j.draw < s.conf.floor →
        s.admitHead = some (u.updateHead fun k => { k with state := .waitBath }))) ∧
    (∀ n, j.state = .claiming → j.claim = some ⟨n, true⟩ →
      (s.holds.stack ≠ [] ∨ s.holds.pending ≠ [] ∨ s.seq.hostLift = .lifting → s.startJob = none) ∧
      (s.holds.stack = [] → s.holds.pending = [] → s.seq.hostLift ≠ .lifting →
        ((∀ c, s.currentCell = some c → ¬(j.span.first ≤ c ∧ c ≤ j.span.last)) →
          s.startJob = some ((s.endClaim n).endEarly j .failed (some .position))) ∧
        (∀ c i, s.currentCell = some c → j.span.first ≤ c → c ≤ j.span.last → s.log.call = some i →
          ∃ t, s.startJob = some t ∧
            t.jobs.list = { j with state := .running, dipId := some s.jobs.nextDipId, dry := none, wet := none } ::
              rest ∧
            t.jobs.nextDipId = (if s.jobs.nextDipId < 4294967295 then s.jobs.nextDipId + 1 else 1) ∧
            t.log.call = none ∧ t.holds.recorded = 0 ∧
            (∃ d, t.log.buffer i = .filling d ∧ d.dipId = s.jobs.nextDipId ∧ d.tag = j.tag ∧
              d.slot = j.slot ∧ d.span = j.span ∧ (∀ e, s.entryOf s.own n = some e → d.ticket = e.ticket) ∧
              d.startTime = s.time.clock ∧ d.holds = [] ∧ d.flags.word = 0) ∧
            t.time.lead = { s.time.lead with armed := false, entry := none, exit := none } ∧
            t.time.trail = { s.time.trail with armed := false, entry := none, exit := none } ∧
            t.seq = { s.seq with
              slot := some j.slot, index := some 0, activity := .segment, phase := some .starting, timer := .stopped
              loops := [], drainTotal := 0 })))

/-- The reactions of an event, in their order, until none can act (2^48 of them, more than one event can bring, log 11);
then the drive link is served (the model's reading, log 10). A job that waits for
cells or for the bath is tested again only after a report of the Claim Unit or a change of the account, on a quiet
station: in WAIT_BATH the bath first, then the Claim Unit's answer places it. (The order of the reactions, and the mark
`retestDue` by which an event's reports are known, are the model's choice, logs 11 and 45.) -/
def Obligations.WaitingJobIsTestedAfterReports : Prop :=
  (∀ s : State,
    s.advanceOnce = [s.advanceSequencer, s.promote, s.startJob, s.retest, s.admitHead, s.placeCheckpoint,
      s.beginAreaWrite, s.beginErase, s.beginCommit].findSome? id ∧
    s.settle = State.settleFor 281474976710656 s ∧ State.settleFor 0 s = s ∧
    (∀ n, s.advanceOnce = none → State.settleFor n s = s) ∧
    (∀ (n : Nat) (t : State), s.advanceOnce = some t → State.settleFor (n + 1) s = State.settleFor n t) ∧
    s.finish = { s.settle.serveDrives with jobs := { s.settle.serveDrives.jobs with retestDue := false } }) ∧
  (∀ (s : State) (j : Job) (rest : List Job), s.jobs.list = j :: rest →
    let quiet := s.roster.state = .active ∧ s.holds.stack = [] ∧ s.holds.pending = [] ∧
      (∀ e ∈ s.claims.table, e.kind ≠ .recovery) ∧ s.account.state = .synced
    let bath := (s.conf.floor : Int) ≤ s.account.balance - reservations s.claims.table - j.draw
    let answer := s.issueRefusal .dip j.span j.draw
    (s.jobs.retestDue = false ∨ ¬quiet → s.retest = none) ∧
    (j.state ≠ .waitCells → j.state ≠ .waitBath → s.retest = none) ∧
    (s.jobs.retestDue = true → quiet → j.state = .waitBath →
      (¬bath → s.retest = none) ∧
      (bath → answer = none → s.retest = some (s.askJobClaim j)) ∧
      (bath → answer = some .blockedCells →
        s.retest = some (s.updateHead fun k => { k with state := .waitCells }))) ∧
    (s.jobs.retestDue = true → quiet → j.state = .waitCells →
      (answer = some .blockedCells → s.retest = none) ∧
      (answer = none → s.retest = some (s.askJobClaim j)) ∧
      (answer = some .blockedBath →
        s.retest = some (s.updateHead fun k => { k with state := .waitBath })))) ∧
  (∀ (s : State) (j : Job),
    (∀ t n, s.askClaim .dip j.span j.draw j.tag = (t, .requesting n) → s.askJobClaim j =
      t.updateHead fun k => { k with state := .claiming, claim := some ⟨n, false⟩ }) ∧
    (∀ t n, s.askClaim .dip j.span j.draw j.tag = (t, .held n) → s.askJobClaim j =
      (t.updateHead fun k => { k with state := .claiming, claim := some ⟨n, true⟩ }).setClaimWait none))

/-- The result, the draw and the immersion time that a close writes, and what the close leaves: the DRAW asked for
unless it is 0 (kept while REBASING), the job claim and then the SHIFT claim ended, the DIP record READY in its buffer,
the job out of the list, the last result. (That the last result carries the whole flags word is the model's reading,
log 40.) -/
def Obligations.CloseSettlesTheJob : Prop :=
  (∀ j : Job,
    (j.cancelLift = true → j.result = .cancelled) ∧
    (j.cancelLift = false → j.abort = some .program → j.result = .abortedProgram) ∧
    (j.cancelLift = false → j.abort = some .bath → j.result = .abortedBath) ∧
    (j.cancelLift = false → j.abort = none → j.shiftTimedOut = true → j.result = .shiftTimeout) ∧
    (j.cancelLift = false → j.abort = none → j.shiftTimedOut = false → j.result = .done)) ∧
  (∀ (dry wet : Option Nat) (expected : Nat) (f : DipFlags),
    let d := fun immersed => drawOf immersed dry wet expected
    ((d false).1 = 0 ∧ (d false).2 f = f) ∧
    (dry = none ∨ wet = none → (d true).1 = expected ∧ (d true).2 f = { f with estimated := true }) ∧
    (∀ a b, dry = some a → wet = some b → b < a → (d true).1 = 0 ∧ (d true).2 f = { f with weighAnomaly := true }) ∧
    (∀ a b, dry = some a → wet = some b → a ≤ b → 2 * expected < b - a →
      (d true).1 = b - a ∧ (d true).2 f = { f with excess := true }) ∧
    (∀ a b, dry = some a → wet = some b → a ≤ b → b - a ≤ 2 * expected → (d true).1 = b - a ∧ (d true).2 f = f)) ∧
  (∀ lead trail : Capture,
    let first := match lead.entry, trail.entry with
      | some a, some b => some (if timeLater a b then b else a)
      | some a, none => some a
      | none, x => x
    let last := match lead.exit, trail.exit with
      | some a, some b => some (if timeLater b a then b else a)
      | some a, none => some a
      | none, x => x
    (first = none ∨ last = none → immersionOf lead trail = none) ∧
    (∀ a b, first = some a → last = some b →
      (timeLater b a = true → immersionOf lead trail = some (b - a).toNat) ∧
      (timeLater b a = false → immersionOf lead trail = none))) ∧
  (∀ (s : State) (j : Job) (rest : List Job), s.jobs.list = j :: rest → j.state = .running →
    let t := s.closeJob
    let d := drawOf (s.time.lead.entry.isSome || s.time.trail.entry.isSome) j.dry j.wet j.draw
    let flagged := fun f : DipFlags =>
      { d.2 f with cancelRequested := (d.2 f).cancelRequested || (j.cancelPending && !j.cancelLift) }
    let settled := (s.enterClosing.updateFlags flagged).closeClaims j d.1
    t.jobs.list = s.jobs.list.filter (fun k => k.tag != j.tag) ∧ t.jobs.claimWait = none ∧
    t.seq.activity = .idle ∧ t.seq.loops = [] ∧ t.seq.timer = .stopped ∧
    t.time.lead.armed = false ∧ t.time.trail.armed = false ∧ t.port.flags.jobEnd = true ∧
    t.account = settled.account ∧ t.claims = settled.claims ∧ t.link = settled.link ∧
    t.jobs.lastResult = some ⟨j.tag, j.dipId, j.result, none, d.1,
      s.log.fillingRecord.map fun q => flagged q.2.flags, false⟩ ∧
    (∀ i r, s.log.fillingRecord = some (i, r) →
      t.log.buffer i = .ready ⟨s.log.nextSeq, s.time.clock, .dip { r with
        endTime := s.time.clock
        leadEntry := s.time.lead.entry
        leadExit := s.time.lead.exit
        trailEntry := s.time.trail.entry
        trailExit := s.time.trail.exit
        immersion := immersionOf s.time.lead s.time.trail
        drainTotal := s.seq.drainTotal
        dry := j.dry
        wet := j.wet
        draw := d.1
        flags := flagged r.flags
        result := j.result }⟩)) ∧
  (∀ (s : State) (j : Job) (draw : Nat),
    let asked := if draw = 0 then s
      else if s.account.state = .rebasing then
        s.setAccount { s.account with deferredDraw := some ⟨draw, j.dipId.getD 0⟩ }
      else s.originateDraw ⟨draw, j.dipId.getD 0⟩
    let freed := match j.claim with
      | some c => asked.endClaim c.number
      | none => asked
    s.closeClaims j draw = match j.shiftClaim with
      | some c => freed.endClaim c.number
      | none => freed)

/-- LOAD_PROGRAM replaces its slot by the segments up to and including the first with the last flag, in the order of its
tests; READ_PROGRAM answers a slot; no other command but a reset changes a slot. A segment is stored with its kind, its
last flag and its modes, FAST, SYNC and SENSE from flag bit 1. -/
def Obligations.SlotsChangeOnlyByLoading : Prop :=
  (∀ (c : Instr) (s t : State), exec c s = .next t → t.programs ≠ s.programs →
    c = .powerOn ∨ c = .resetAsserted ∨ ∃ slot segs, c = .loadProgram slot segs) ∧
  (∀ (s : State) (slot : Nat) (segs : List RawSegment), s.Listens →
    let c := Instr.loadProgram slot segs
    let w := s.working c
    let ranges := slot < 8 ∧ segs.length ≤ 32
    let unused := ∀ j ∈ s.jobs.list, j.slot ≠ slot
    (¬ranges → exec c s = .next (w.invalid).finish) ∧
    (ranges → ¬unused → exec c s = .next (w.busy).finish) ∧
    (∀ index why, ranges → unused → segs ≠ [] → validate s.roster.config segs = some (index, why) →
      exec c s = .next (w.reply .invalid (.segmentFailure index why)).finish) ∧
    (∀ h : slot < 8, segs.length ≤ 32 → unused → segs = [] ∨ validate s.roster.config segs = none →
      let p := storedProgram segs
      exec c s = .next (({ w with programs := ⟨s.programs.slots.set slot p⟩ } : State).ok (.count p.length)).finish)) ∧
  (∀ (s : State) (slot : Nat), s.Listens →
    (slot < 8 → exec (.readProgram slot) s =
      .next ((s.working (.readProgram slot)).ok (.program (s.program slot))).finish) ∧
    (8 ≤ slot → exec (.readProgram slot) s = .next ((s.working (.readProgram slot)).invalid).finish)) ∧
  (∀ segs : List RawSegment,
    ((∀ r ∈ segs, r.flags.getLsbD 0 = false) → storedProgram segs = []) ∧
    (∀ l r m, segs = l ++ r :: m → (∀ q ∈ l, q.flags.getLsbD 0 = false) → r.flags.getLsbD 0 = true →
      storedProgram segs = (l ++ [r]).map storedSegment)) ∧
  (∀ r : RawSegment,
    let g := storedSegment r
    let n := fun start len => natOf ((r.operands.drop start).take len)
    let h := fun start => signedOf 2 (n start 2)
    g.last = r.flags.getLsbD 0 ∧ g.modes = ⟨r.flags.getLsbD 1, r.flags.getLsbD 2, r.flags.getLsbD 3⟩ ∧
    (r.kind = 0#8 → g.kind = .hoist (h 0) (h 2) (n 4 2)) ∧ (r.kind = 1#8 → g.kind = .dwell (n 0 4)) ∧
    (r.kind = 2#8 → g.kind = .drain (n 0 4)) ∧
    (r.kind = 3#8 → n 0 1 = 0 → g.kind = .weigh .dry (n 1 2)) ∧
    (r.kind = 3#8 → n 0 1 = 1 → g.kind = .weigh .wet (n 1 2)) ∧
    (r.kind = 4#8 → g.kind = .loop (n 0 1) (n 1 1)) ∧ (r.kind = 5#8 → g.kind = .shift ⟨n 0 1, n 1 1⟩))

/-- The validation of R95: with no last flag NO_LAST at index 0; else the first failing segment up to the first last
flag, with the first reason of the table that it fails by. (Without a configuration every HOIST fails BAD_HEIGHT and
every SHIFT BAD_SPAN, the model's choice, log 21.) -/
def Obligations.LoadedProgramIsValidated : Prop :=
  (∀ (cfg : Option ConfigRecord) (segs : List RawSegment),
    ((∀ r ∈ segs, r.flags.getLsbD 0 = false) → validate cfg segs = some (0, .noLast)) ∧
    (∀ li, segs.findIdx? (fun r => r.flags.getLsbD 0) = some li →
      ((∀ i r, i ≤ li → segs[i]? = some r → segmentFailure cfg segs li i r = none) → validate cfg segs = none) ∧
      (∀ i r why, i ≤ li → segs[i]? = some r → segmentFailure cfg segs li i r = some why →
        (∀ k q, k < i → segs[k]? = some q → segmentFailure cfg segs li k q = none) →
        validate cfg segs = some (i, why)))) ∧
  (∀ (cfg : Option ConfigRecord) (segs : List RawSegment) (li i : Nat) (r : RawSegment),
    let n := RawSegment.nat r
    let h := RawSegment.int r
    let kind := 5 < r.kind.toNat
    let mode := 15 < r.flags.toNat ∨ (r.kind ≠ 0#8 ∧ 1 < r.flags.toNat)
    let operand := (r.kind = 0#8 ∧ (n 4 2 < 10 ∨ 500 < n 4 2)) ∨
      ((r.kind = 1#8 ∨ r.kind = 2#8) ∧ 600000 < n 0 4) ∨
      (r.kind = 3#8 ∧ (1 < n 0 1 ∨ n 1 2 < 200 ∨ 10000 < n 1 2)) ∨ (r.kind = 4#8 ∧ n 0 1 = 0)
    let height := r.kind = 0#8 ∧ ∀ c, cfg = some c →
      ¬(c.lowerLimit ≤ h 0 ∧ h 0 ≤ c.upperLimit ∧ c.lowerLimit ≤ h 2 ∧ h 2 ≤ c.upperLimit)
    let loop := r.kind = 4#8 ∧ (n 1 1 ≤ i ∨ li < n 1 1)
    let cross := r.kind = 4#8 ∧ ∃ a q, a < i ∧ segs[a]? = some q ∧ q.kind = 4#8 ∧
      i ≤ RawSegment.nat q 1 1 ∧ RawSegment.nat q 1 1 < n 1 1
    let span := r.kind = 5#8 ∧ ∀ c, cfg = some c →
      ¬(n 0 1 ≤ n 1 1 ∧ n 1 1 < c.cells ∧ ∃ w, c.reach[c.ownRank] = some w ∧ w.first ≤ n 0 1 ∧ n 1 1 ≤ w.last)
    let fails := segmentFailure cfg segs li i r
    (kind → fails = some .badKind) ∧
    (¬kind → mode → fails = some .badMode) ∧
    (¬kind → ¬mode → operand → fails = some .badOperand) ∧
    (¬kind → ¬mode → ¬operand → height → fails = some .badHeight) ∧
    (¬kind → ¬mode → ¬operand → ¬height → loop → fails = some .badLoop) ∧
    (¬kind → ¬mode → ¬operand → ¬height → ¬loop → cross → fails = some .loopCross) ∧
    (¬kind → ¬mode → ¬operand → ¬height → ¬loop → ¬cross → span → fails = some .badSpan) ∧
    (¬kind → ¬mode → ¬operand → ¬height → ¬loop → ¬cross → ¬span → fails = none))

/-! ## The Dip Sequencer -/

/-- The start of each kind of segment: the mask emptied, the marks cleared, every MOVE asked for before no present one any
more (log 16), and the kind's own work or its program fault. A SENSE HOIST arms the capture of both hooks: the entry time
of a line already on is the clock, if it was absent, and an armed capture stays as it is. A program fault leaves the Sequencer STOPPED, a DRAIN's counted time added, the fault's name in the DIP record's
flags, and latches PROGRAM. (That slot and index stay as they are is the model's choice, log 39.) -/
def Obligations.SegmentStartsByItsKind : Prop :=
  (∀ (s : State) (g : Segment),
    let u := ((s.setHolds { s.holds with mask := ⟨false, false, false⟩ }).setSeq { s.seq with
      arrivedLead := false, arrivedTrail := false, arrivedTravel := false }).forgetMoves
    let done := u.setSeq { u.seq with phase := some .complete }
    let times := fun n => u.setSeq { u.seq with timer := .running ⟨s.time.clock, n⟩, phase := some .timing }
    let clear := s.aboveClear .lead = true ∧ s.aboveClear .trail = true
    (∀ lead trail v, g.kind = .hoist lead trail v →
      let m := (if g.modes.sense then u.armCaptures else u).setSeq { u.seq with phase := some .moving }
      let speed := if g.modes.fast then v else min v s.conf.slowSpeed
      let lowers := lead < s.conf.clear ∨ trail < s.conf.clear
      (lowers → s.mayLower = false → s.startSegment g = m.programFault .offSpan) ∧
      (¬lowers ∨ s.mayLower = true →
        s.startSegment g = (m.postCommand .lead (.move lead speed)).postCommand .trail (.move trail speed))) ∧
    (g.kind = .dwell 0 → s.startSegment g = done) ∧
    (∀ n, g.kind = .dwell n → n ≠ 0 → s.startSegment g = times n) ∧
    (∀ n, g.kind = .drain n → s.time.lead.on = true ∨ s.time.trail.on = true →
      s.startSegment g = u.programFault .drainWet) ∧
    (g.kind = .drain 0 → s.time.lead.on = false → s.time.trail.on = false → s.startSegment g = done) ∧
    (∀ n, g.kind = .drain n → n ≠ 0 → s.time.lead.on = false → s.time.trail.on = false →
      s.startSegment g = times n) ∧
    (∀ role n, g.kind = .weigh role n → s.startSegment g = u.setSeq { u.seq with phase := some .settling }) ∧
    (∀ n last i, g.kind = .loop n last → s.seq.index = some i →
      (s.seq.loops.length < 4 → s.startSegment g =
        u.setSeq { u.seq with loops := ⟨i + 1, last, n⟩ :: s.seq.loops, phase := some .complete }) ∧
      (4 ≤ s.seq.loops.length → s.startSegment g = u.programFault .repeatOverflow)) ∧
    (∀ sp, g.kind = .shift sp → ¬clear → s.startSegment g = u.programFault .shiftWet) ∧
    (∀ sp j, g.kind = .shift sp → clear → s.runningJob = some j → s.startSegment g =
      (u.setClaimWait (some ⟨s.time.clock, j.waitLimit * 1000⟩)).askShift sp j)) ∧
  (∀ (s : State) (f : ProgramFault),
    s.programFault f = ((s.setSeq { s.seq with
      activity := .stopped, phase := none, timer := .stopped
      drainTotal := min (s.seq.drainTotal + s.drainCounted) 4294967295 }).updateFlags fun x => match f with
        | .drainWet => { x with drainWet := true }
        | .repeatOverflow => { x with repeatOverflow := true }
        | .shiftWet => { x with shiftWet := true }
        | .offSpan => { x with offSpan := true }).latch .program (.program f) ∧
    (∀ n t, s.activeKind = some (.drain n) → s.seq.timer = .running t →
      s.drainCounted = n - (t.length - (s.time.clock - t.start).toNat)) ∧
    (∀ n r, s.activeKind = some (.drain n) → s.seq.timer = .suspended r → s.drainCounted = n - r) ∧
    (s.seq.timer = .stopped ∨ (∀ n, s.activeKind ≠ some (.drain n)) → s.drainCounted = 0)) ∧
  (∀ s : State,
    let t := s.armCaptures
    t = { s with time := { s.time with lead := t.time.lead, trail := t.time.trail } } ∧
    ∀ hook,
      let c := s.time.get hook
      (c.armed = true → t.time.get hook = c) ∧
      (c.armed = false → c.on = true → c.entry = none →
        t.time.get hook = { c with armed := true, entry := some s.time.clock }) ∧
      (c.armed = false → c.on = false ∨ c.entry ≠ none → t.time.get hook = { c with armed := true }))

/-- The SHIFT's claim: asked for as the segment starts, its answer gives the phase; in WAITING it is asked again when
the Claim Unit would issue. In HELD, with no hold standing, the travel MOVE to the centre of the new span goes out with
its arrived mark clear; when it has arrived, the old claim is ended, the SHIFT claim becomes the job claim, the job takes
the new span, and the segment completes. (That the MOVE goes out with its mark clear is the model's reading, log 16.) -/
def Obligations.ShiftClaimsTravelsAndArrives : Prop :=
  (∀ (s : State) (sp : Span) (j : Job),
    let asked := s.askClaim .shift sp j.draw j.tag
    let phase := fun (p : Phase) (t : State) => t.setSeq { t.seq with phase := some p }
    (∀ t n, asked = (t, .requesting n) → s.askShift sp j =
      phase .negotiating (t.updateHead fun k => { k with shiftClaim := some ⟨n, false⟩ })) ∧
    (∀ t n, asked = (t, .held n) → s.askShift sp j =
      phase .held ((t.updateHead fun k => { k with shiftClaim := some ⟨n, true⟩ }).setClaimWait none)) ∧
    (∀ a, s.issueRefusal .shift sp j.draw = some a → s.askShift sp j = phase .waiting s)) ∧
  (∀ (s : State) (g : Segment) (i : Nat) (sp : Span) (j : Job), s.seq.activity = .segment → s.segment = some g →
    s.seq.index = some i → g.kind = .shift sp → s.runningJob = some j →
    (s.seq.phase = some .waiting → s.issueRefusal .shift sp j.draw = none →
      s.advanceOnce = some (s.askShift sp j)) ∧
    (s.seq.phase = some .waiting → s.issueRefusal .shift sp j.draw ≠ none → s.advanceSequencer = none) ∧
    (s.seq.phase = some .negotiating → s.advanceSequencer = none) ∧
    (s.holds.stack ≠ [] → s.seq.phase ≠ some .waiting → s.advanceSequencer = none) ∧
    (s.holds.stack = [] → s.seq.phase = some .starting → s.advanceOnce = some (s.startSegment g)) ∧
    (s.holds.stack = [] → s.seq.phase = some .held →
      s.advanceOnce = some ((s.postCommand .travel (.move
        (((sp.first + sp.last + 1) * s.conf.cellLength / 2 : Nat) : Int) s.conf.travelSpeed)).setSeq
          { s.seq with phase := some .travelling, arrivedTravel := false })) ∧
    (s.holds.stack = [] → s.seq.phase = some .travelling → s.seq.arrivedTravel = false → s.advanceSequencer = none) ∧
    (s.holds.stack = [] → s.seq.phase = some .travelling → s.seq.arrivedTravel = true →
      let freed := match j.claim with
        | some c => s.endClaim c.number
        | none => s
      s.advanceOnce = some (((freed.updateHead fun k =>
        { k with claim := k.shiftClaim, shiftClaim := none, span := sp }).updateFlags fun f =>
          { f with shifted := true }).setSeq { s.seq with phase := some .complete })))

/-- The end test: the top entry of the repeat stack counts down when its loop ends at the completed segment, and the
next segment is its start while passes remain; an entry that has none left is popped and the test goes on below it. A
completed segment is followed by the one the end test names, else by the next, else by the program's end. A DWELL and a
DRAIN complete when their timer runs out, the DRAIN counting its time; a WEIGH, whose timer starts when no MOVE is in
flight, records the sum of the two hoists' latest loads, if both have reported, and completes; the automatic WET
weighing then closes the job. -/
def Obligations.SegmentsCompleteAndLoopsCount : Prop :=
  (∀ index : Nat, endTest index [] = ([], none) ∧ ∀ (l : Loop) (rest : List Loop),
    (l.endIndex ≠ index → endTest index (l :: rest) = (l :: rest, none)) ∧
    (l.endIndex = index → 1 < l.remaining →
      endTest index (l :: rest) = ({ l with remaining := l.remaining - 1 } :: rest, some l.start)) ∧
    (l.endIndex = index → l.remaining ≤ 1 → endTest index (l :: rest) = endTest index rest)) ∧
  (∀ (s : State) (g : Segment) (i : Nat), s.seq.activity = .segment → s.segment = some g → s.seq.index = some i →
    s.holds.stack = [] →
    let r := endTest i s.seq.loops
    let start := fun n : Nat => s.advanceOnce = some (s.setSeq { s.seq with
      activity := .segment, index := some n, phase := some .starting, timer := .stopped, loops := r.1 })
    (s.seq.phase = some .starting → s.advanceOnce = some (s.startSegment g)) ∧
    (∀ n, s.seq.phase = some .complete → r.2 = some n → start n) ∧
    (s.seq.phase = some .complete → r.2 = none → g.last = false → start (i + 1)) ∧
    (s.seq.phase = some .complete → r.2 = none → g.last = true →
      s.advanceOnce = some (s.setSeq { s.seq with loops := r.1 }).endProgram) ∧
    (∀ lead trail v, g.kind = .hoist lead trail v → s.seq.phase = some .moving → s.seq.arrivedLead = true →
      s.seq.arrivedTrail = true → s.advanceOnce = some (s.setSeq { s.seq with phase := some .complete })) ∧
    (∀ role n, g.kind = .weigh role n → s.seq.phase = some .settling → s.anyMoveInFlight = false →
      s.advanceOnce = some (s.setSeq { s.seq with
        timer := .running ⟨s.time.clock, n⟩, phase := some .timing })) ∧
    (∀ role n, g.kind = .weigh role n → s.seq.phase = some .settling → s.anyMoveInFlight = true →
      s.advanceSequencer = none)) ∧
  (∀ (s : State) (t : Timer), s.seq.timer = .running t → t.due s.time.clock = true →
    let ended := fun u : State => u.setSeq { u.seq with timer := .stopped, phase := some .complete }
    let weighed := fun (u : State) (role : Role) => match s.drive.lead.report, s.drive.trail.report with
      | some a, some b => u.updateHead fun j => match role with
        | .dry => { j with dry := some (min (a.load + b.load) 4294967295) }
        | .wet => { j with wet := some (min (a.load + b.load) 4294967295) }
      | _, _ => u
    (∀ n, s.activeKind = some (.dwell n) → exec .dwellTimerExpiry s = .next (ended s).finish) ∧
    (∀ n, s.activeKind = some (.drain n) → exec .drainTimerExpiry s =
      .next (ended (s.setSeq { s.seq with drainTotal := min (s.seq.drainTotal + n) 4294967295 })).finish) ∧
    (∀ role n, s.activeKind = some (.weigh role n) →
      exec .settleTimerExpiry s = .next (ended (weighed s role)).finish) ∧
    (s.seq.activity = .weighAfterLift → exec .settleTimerExpiry s =
      .next (((weighed s .wet).setSeq { s.seq with timer := .stopped, phase := none }).closeJob).finish))

/-! ## Drives -/

/-- A command posted on a channel takes the place of the one waiting there, whatever the two are, and touches no other
channel. A MOVE posted is present, one of the segment or the lift that the Sequencer is in; when those end for another,
none of the MOVEs asked for before is (`forgetMoves`): the model's reading, log 16. When the link is free, as a sending ends or already at the end of an event (`serveDrives`, log 10), the waiting
command of the first channel after the turn pointer is sent: a MOVE becomes the command in flight with its move timer, a
STOP acts on the one in flight. A busy link sends nothing. -/
def Obligations.DriveLinkServesInTurn : Prop :=
  (∀ (s : State) (ch : Channel) (cmd : DriveCommand),
     let t := s.postCommand ch cmd
     t = { s with drive := t.drive } ∧
     (cmd = .stop → t.channel ch = { s.channel ch with waiting := some cmd }) ∧
     (cmd ≠ .stop → t.channel ch = { s.channel ch with waiting := some cmd, waitingPresent := true }) ∧
     (∀ d, d ≠ ch → t.channel d = s.channel d) ∧
     t.drive.turn = s.drive.turn ∧ t.drive.busy = s.drive.busy ∧ t.drive.errors = s.drive.errors) ∧
  (∀ s : State,
     let t := s.forgetMoves
     t = { s with drive := t.drive } ∧
     (∀ ch, t.channel ch = { s.channel ch with
       inFlight := (s.channel ch).inFlight.map fun f => { f with isPresent := false }, waitingPresent := false }) ∧
     t.drive.turn = s.drive.turn ∧ t.drive.busy = s.drive.busy ∧ t.drive.errors = s.drive.errors) ∧
  ((∀ s : State, s.drive.lead.waiting = none → s.drive.trail.waiting = none → s.drive.travel.waiting = none →
     exec .driveSendEnd s = .next { s with drive := { s.drive with busy := false } } ∧ s.serveDrives = s) ∧
   (∀ s : State, s.drive.busy = true → s.serveDrives = s) ∧
   (∀ (s : State) (ch : Channel) (cmd : DriveCommand), (s.channel ch).waiting = some cmd →
     (∀ d, d ≠ ch → (s.channel d).waiting ≠ none →
       (s.drive.turn = .lead → (ch = .trail ∨ (ch = .travel ∧ d = .lead))) ∧
       (s.drive.turn = .trail → (ch = .travel ∨ (ch = .lead ∧ d = .trail))) ∧
       (s.drive.turn = .travel → (ch = .lead ∨ (ch = .trail ∧ d = .travel)))) →
     let c := s.channel ch
     let sends := fun c' : ChannelState =>
       let t : State := { s with drive := { s.drive.set ch c' with turn := ch, busy := true } }
       exec .driveSendEnd s = .next t ∧ (s.drive.busy = false → s.serveDrives = t)
     (∀ target v, cmd = .move target v →
       let range := if ch = .travel then s.conf.cells * s.conf.cellLength else 12000
       let distance := match c.report with
         | some r => (target - r.position).natAbs
         | none => range
       sends { c with
         waiting := none
         inFlight := some ⟨target, v, c.report.map (·.position), s.time.clock, .moving, c.waitingPresent, false⟩
         timer := some ⟨s.time.clock, (distance * 1500 + v - 1) / v + 2000⟩ }) ∧
     (cmd = .stop → c.inFlight = none → sends { c with waiting := none }) ∧
     (∀ f, cmd = .stop → c.inFlight = some f → sends { c with
       waiting := none
       inFlight := some { f with status := if f.status = .moving then .stopping else f.status }
       timer := some ⟨s.time.clock, 2000⟩ })))

/-- An ARRIVED is accepted for a command MOVING or STOPPING toward its target: the command ends and the channel's mark is
set when the command is a present MOVE, one of the segment or the lift that the Sequencer is in (the model's reading,
log 16). Any other is ignored. A REPORT replaces the channel's latest; with moving
clear it ends a command STOPPING or TIMED_OUT. The latest travel REPORT gives the current cell, its position by the cell
length, if it is one of the cells. A travel REPORT is then tested against the spans while a hoist is being
lowered (log 38), a hoist REPORT by the sync check, which compares the progress of the two hoists in percent while MOVEs
of the segment are in flight on both, MOVING, and both have reported since. (The progress of a MOVE sent before any report
is a free value, log 19. That a REPORT out of the ranges of R141 is kept as it is sent, a position below 0 giving no
current cell, is the model's choice, log 46; the mark that a channel has reported is its reading, log 35.) -/
def Obligations.ArrivedAndReportAreTaken : Prop :=
  (∀ (s : State) (ch : Channel) (target : Int),
     let c := s.channel ch
     let u := s.setChannel ch { c with inFlight := none, timer := none }
     let walks := s.seq.activity = .segment ∨ s.seq.activity = .lift
     let marked := u.setSeq { s.seq with
       arrivedLead := s.seq.arrivedLead || ch == .lead
       arrivedTrail := s.seq.arrivedTrail || ch == .trail
       arrivedTravel := s.seq.arrivedTravel || ch == .travel }
     (c.inFlight = none → exec (.arrived ch target) s = .next s) ∧
     (∀ f, c.inFlight = some f → f.target ≠ target ∨ f.status = .timedOut → exec (.arrived ch target) s = .next s) ∧
     (∀ f, c.inFlight = some f → f.target = target → f.status ≠ .timedOut →
       (f.isPresent = true → walks → exec (.arrived ch target) s = .next marked.finish) ∧
       (f.isPresent = false ∨ ¬walks → exec (.arrived ch target) s = .next u.finish))) ∧
  (∀ (s : State) (ch : Channel) (position : Int) (load : Nat) (moving : Bool), s.roster.state ≠ .offline →
     let c := s.channel ch
     let r : DriveReport := ⟨position, load, moving, s.time.clock⟩
     let kept : ChannelState :=
       { c with report := some r, inFlight := c.inFlight.map fun f => { f with reported := true } }
     let stops := moving = false ∧ ∃ f, c.inFlight = some f ∧ f.status ≠ .moving
     let hands := fun u : State => exec (.report ch position load moving) s =
       .next (if ch = .travel then u.travelTest else u.syncTest).finish
     (stops → hands (s.setChannel ch { kept with inFlight := none, timer := none })) ∧
     (¬stops → hands (s.setChannel ch kept))) ∧
  (∀ s : State,
    let lowers := fun c : ChannelState => (∃ f, c.inFlight = some f ∧ f.target < s.conf.clear) ∨
      ∃ target v, c.waiting = some (.move target v) ∧ target < s.conf.clear
    let above := ∃ cell, s.currentCell = some cell ∧ ∃ e ∈ s.claims.table, e.origin = s.own ∧ e.state = .held ∧
      (e.kind = .dip ∨ e.kind = .shift) ∧ e.span.first ≤ cell ∧ cell ≤ e.span.last
    let tested := s.seq.activity = .segment ∧ s.runningJob ≠ none ∧ (lowers s.drive.lead ∨ lowers s.drive.trail)
    (tested → ¬above → s.travelTest =
      ((s.postCommand .lead .stop).postCommand .trail .stop).programFault .offSpan) ∧
    (¬tested ∨ above → s.travelTest = s)) ∧
  (∀ s : State,
    (s.drive.travel.report = none → s.currentCell = none) ∧
    (∀ r, s.drive.travel.report = some r →
      (r.position < 0 ∨ ((s.conf.cells * s.conf.cellLength : Nat) : Int) ≤ r.position → s.currentCell = none) ∧
      (0 ≤ r.position → r.position < ((s.conf.cells * s.conf.cellLength : Nat) : Int) →
        s.currentCell = some (r.position.toNat / s.conf.cellLength)))) ∧
  (∀ c : ChannelState,
    let counts := fun (f : InFlight) (r : DriveReport) => c.inFlight = some f ∧ c.report = some r ∧
      f.status = .moving ∧ f.isPresent = true ∧ f.reported = true ∧ ∀ target v, c.waiting ≠ some (.move target v)
    ((∀ f r, ¬counts f r) → c.syncProgress = none) ∧
    (∀ f r, counts f r → c.syncProgress.isSome = true) ∧
    (∀ f r start, counts f r → f.start = some start →
      (f.target = start → c.syncProgress = some 100) ∧
      (f.target ≠ start → c.syncProgress =
        some (min 100 ((r.position - start).natAbs * 100 / (f.target - start).natAbs))))) ∧
  (∀ s : State,
    let sync := s.seq.activity = .segment ∧ s.seq.phase = some .moving ∧
      ∃ g lead trail v, s.segment = some g ∧ g.kind = .hoist lead trail v ∧ g.modes.sync = true
    let parted := ∃ a b, s.drive.lead.syncProgress = some a ∧ s.drive.trail.syncProgress = some b ∧
      (s.conf.syncTolerance < a - b ∨ s.conf.syncTolerance < b - a)
    (sync → parted → s.syncTest = s.latch .drive .sync) ∧ (¬sync ∨ ¬parted → s.syncTest = s))

/-- FAULT, READY and a discarded event, each at its channel. A move that runs out of time latches DRIVE, is TIMED_OUT
and has a STOP posted; a STOP that runs out of its allowance ends the command, and latches DRIVE when it was STOPPING.
(That a FAULT with code 0, which R139 and R207 do not give, is taken with code 0 is the model's choice, log 46.) -/
def Obligations.DriveFaultsAndTimersAreTaken : Prop :=
  (∀ (s : State) (ch : Channel) (code : Byte), s.roster.state ≠ .offline →
     exec (.fault ch code) s = .next (((s.setChannel ch { s.channel ch with
       inFlight := none, timer := none, ready := false, faultCode := some code }).latch .drive
         (.fault ch code)).finish) ∧
     exec (.ready ch) s = .next (s.setChannel ch { s.channel ch with ready := true }) ∧
     exec .driveEventDiscarded s = .next { s with drive := { s.drive with
       errors := if s.drive.errors < 65535 then s.drive.errors + 1 else s.drive.errors } }) ∧
  (∀ (s : State) (ch : Channel) (f : InFlight) (t : Timer), (s.channel ch).inFlight = some f →
     (s.channel ch).timer = some t → t.due s.time.clock = true →
     let c := s.channel ch
     let stopped := fun u : State => u.setChannel ch { u.channel ch with inFlight := none, timer := none }
     (f.status = .moving → exec (.moveTimerExpiry ch) s = .next ((((s.setChannel ch { c with
       timer := none, inFlight := some { f with status := .timedOut } }).latch .drive (.timeout ch)).postCommand ch
         .stop).finish)) ∧
     (f.status = .stopping →
         exec (.stopAllowanceExpiry ch) s = .next (stopped (s.latch .drive (.timeout ch))).finish) ∧
     (f.status = .timedOut → exec (.stopAllowanceExpiry ch) s = .next (stopped s).finish))

/-! ## The log -/

/-- The end of a commit: a match puts the record on the page and frees the buffer; a mismatch leaves the page INVALID,
and the third in a row stops the log. In both the write position moves on to the next EMPTY page of its section, or
the section ahead is due to be erased, or, locked, makes the log FULL, with a COMMITTING buffer back to READY. The last
record sequence stops the log (log 18). The end of an erase: the pages that do not read EMPTY are INVALID (the model's
reading, log 32), and the write position is the section's first EMPTY page. -/
def Obligations.CommitAndEraseMoveOn : Prop :=
  (∀ (s : State) (i : BufferId) (r : Record) (p : Nat), s.log.op = .program → s.log.committing = some (i, r) →
     s.log.writePos = some p →
     let bad := (s.setPages (putPage p .invalid s.flash.pages)).setLog { s.log with failures := s.log.failures + 1 }
     let good := (s.setPages (putPage p (.record r) s.flash.pages)).setLog
       { s.log.setBuffer i .free with failures := 0, op := .none }
     let ahead := (p / 64 + 1) % 64
     (∀ q, r.seq < 4294967295 → nextEmptyAfter good.flash.pages p = some q →
       exec (.commitEnd true) s = .next (good.setLog { good.log with writePos := some q }).finish) ∧
     (r.seq < 4294967295 → nextEmptyAfter good.flash.pages p = none → sectionLocked s.log.locks ahead = false →
       exec (.commitEnd true) s = .next (good.setLog { good.log with eraseDue := some ahead }).finish) ∧
     (r.seq < 4294967295 → nextEmptyAfter good.flash.pages p = none → sectionLocked s.log.locks ahead = true →
       exec (.commitEnd true) s = .next (good.enterFull ahead).finish) ∧
     (4294967295 ≤ r.seq → exec (.commitEnd true) s = .next ((good.setLog { good.log with
       state := .fault, writePos := some ((nextEmptyAfter good.flash.pages p).getD p) }).raise .logFault).finish) ∧
     (2 ≤ s.log.failures → exec (.commitEnd false) s = .next (((bad.setLog { bad.log.backToReady with
       state := .fault, op := .none }).raise .logFault).finish)) ∧
     (∀ q, s.log.failures < 2 → nextEmptyAfter bad.flash.pages p = some q →
       (s.log.state = .opened → s.log.eraseDue = none →
         exec (.commitEnd false) s = .next (bad.setLog { bad.log with writePos := some q }).finish) ∧
       (s.log.state ≠ .opened ∨ s.log.eraseDue ≠ none →
         exec (.commitEnd false) s = .next (bad.setLog { bad.log with writePos := some q, op := .none }).finish)) ∧
     (s.log.failures < 2 → nextEmptyAfter bad.flash.pages p = none → sectionLocked s.log.locks ahead = false →
       exec (.commitEnd false) s = .next (bad.setLog { bad.log with eraseDue := some ahead, op := .none }).finish) ∧
     (s.log.failures < 2 → nextEmptyAfter bad.flash.pages p = none → sectionLocked s.log.locks ahead = true →
       let full := bad.enterFull ahead
       full.log.buffer i = .ready r ∧
         exec (.commitEnd false) s = .next (full.setLog { full.log with op := .none }).finish)) ∧
  (∀ (s : State) (x : Nat),
     let t := s.enterFull x
     t = { s with
       log := { s.log with
         bufA := t.log.bufA, bufB := t.log.bufB, state := .full, writePos := none, eraseDue := none
         blocked := some ⟨x, true⟩ }
       port := { s.port with flags := { s.port.flags with logFull := true } } } ∧
     ∀ i, (∀ r, s.log.buffer i = .committing r → t.log.buffer i = .ready r) ∧
       ((∀ r, s.log.buffer i ≠ .committing r) → t.log.buffer i = s.log.buffer i)) ∧
  (∀ (s : State) (x : Nat) (bad : List Nat), s.log.op = .erase x → (∀ o ∈ bad, o < 64) →
     let u := (s.setPages (bad.foldl (fun ps o => putPage (64 * x + o) .invalid ps) s.flash.pages)).setLog
       { s.log with op := .none }
     (∀ q, nextEmpty u.flash.pages 64 (64 * x) = some q →
       exec (.eraseEnd bad) s = .next (u.setLog { u.log with writePos := some q }).finish) ∧
     (nextEmpty u.flash.pages 64 (64 * x) = none → sectionLocked s.log.locks ((x + 1) % 64) = false →
       exec (.eraseEnd bad) s = .next (u.setLog { u.log with eraseDue := some ((x + 1) % 64) }).finish) ∧
     (nextEmpty u.flash.pages 64 (64 * x) = none → sectionLocked s.log.locks ((x + 1) % 64) = true →
       exec (.eraseEnd bad) s = .next (u.enterFull ((x + 1) % 64)).finish))

/-- The array's next operation, when none is in flight: an area write that waits; else, in an OPEN log with none
waiting, an erase that is due, which makes every page of its section read EMPTY, or finds it locked (FULL); else a
commit at the write position, the older READY record first. The record with the lower sequence is the older; of two
that bear the last one, the one made READY first (log 44). A pending checkpoint is placed as soon as a buffer counts as
FREE and the log is neither FULL nor in FAULT. -/
def Obligations.ArrayOperationsAndCheckpointsBegin : Prop :=
  (∀ s : State,
    (s.log.op = .none → s.log.areaWrite ≠ none →
      s.beginAreaWrite = some (s.setLog { s.log with op := .areaWrite })) ∧
    (s.log.op ≠ .none ∨ s.log.areaWrite = none → s.beginAreaWrite = none) ∧
    (s.log.op ≠ .none ∨ s.log.areaWrite ≠ none ∨ s.log.state ≠ .opened →
      s.beginErase = none ∧ s.beginCommit = none) ∧
    (∀ x, s.log.op = .none → s.log.areaWrite = none → s.log.state = .opened → s.log.eraseDue = some x →
      s.beginCommit = none ∧
      (sectionLocked s.log.locks x = true → s.beginErase = some (s.enterFull x)) ∧
      (sectionLocked s.log.locks x = false → s.beginErase = some
        ((s.setPages (s.flash.pages.filter fun q => q.1 / 64 != x)).setLog { s.log with
          op := .erase x, writePos := some (64 * x), eraseDue := none }))) ∧
    (∀ p, s.log.op = .none → s.log.areaWrite = none → s.log.state = .opened → s.log.eraseDue = none →
      s.log.writePos = some p →
      let goes := fun (i : BufferId) (r : Record) =>
        s.beginCommit = some (s.setLog { s.log.setBuffer i (.committing r) with op := .program })
      (∀ i r, s.log.buffer i = .committing r → s.beginCommit = some (s.setLog { s.log with op := .program })) ∧
      (∀ r q, s.log.bufA = .ready r → s.log.bufB = .ready q →
        (q.seq < r.seq ∨ q.seq = r.seq ∧ s.log.lastReady = some .a → goes .b q) ∧
        (r.seq < q.seq ∨ q.seq = r.seq ∧ s.log.lastReady ≠ some .a → goes .a r)) ∧
      (∀ r, s.log.bufA = .ready r → (∀ q, s.log.bufB ≠ .ready q ∧ s.log.bufB ≠ .committing q) → goes .a r) ∧
      (∀ q, s.log.bufB = .ready q → (∀ r, s.log.bufA ≠ .ready r ∧ s.log.bufA ≠ .committing r) → goes .b q))) ∧
  (∀ (s : State) (i : BufferId) (body : RecordBody),
    let t := s.placeReady i body
    t = { s with log := { s.log.setBuffer i (.ready ⟨s.log.nextSeq, s.time.clock, body⟩) with
      nextSeq := if s.log.nextSeq < 4294967295 then s.log.nextSeq + 1 else 4294967295
      lastReady := some i } }) ∧
  (∀ s : State,
    let room := s.log.state ≠ .full ∧ s.log.state ≠ .fault
    (∀ i, s.account.checkpointPending = true → room → s.log.freeBuffer = some i → s.placeCheckpoint =
      some ((s.setAccount { s.account with checkpointPending := false }).placeReady i (.checkpoint s.account.balance
        s.account.applied s.account.ownNext s.roster.ticketCounter))) ∧
    (s.account.checkpointPending = false ∨ ¬room ∨ s.log.freeBuffer = none → s.placeCheckpoint = none))

/-- The end of an area write: a match gives the area its new contents and check, the working table or the pending mark
follows, and it answers; of three mismatches the first two write again, and the third is answered WRITE_FAILED, the
other areas as they were. The log leaves FULL when its blocked section is unlocked: an erase of it when one is needed,
else the write position after the newest record. -/
def Obligations.AreaWriteEndsAndUnlockLeavesFull : Prop :=
  (∀ (s : State) (w : AreaWrite), s.log.op = .areaWrite → s.log.areaWrite = some w →
     let u := s.setLog { s.log with op := .none, areaWrite := none }
     (∀ flags, w.target = .lockTable flags → s.log.state ≠ .full ∨ s.log.blocked = none →
       exec (.areaWriteEnd true) s = .next ((({ u with
         log := { u.log with locks := flags }, flash := { s.flash with locks := .of (lockBytes flags) } } : State).ok
           (.count (flagCount (flags ^^^ s.log.locks))))).finish) ∧
     (∀ bytes, w.target = .config bytes →
       exec (.areaWriteEnd true) s = .next ((({ u with
         roster := { s.roster with pendingConfig := true }, flash := { s.flash with config := .of bytes } }
           : State).ok .empty)).finish) ∧
     (w.failed < 2 → exec (.areaWriteEnd false) s =
       .next (s.setLog { s.log with areaWrite := some { w with failed := w.failed + 1 } }).finish) ∧
     (2 ≤ w.failed → ∃ t : State, exec (.areaWriteEnd false) s = .next (t.refuse .writeFailed).finish ∧
       t = { u with flash := t.flash, draws := s.draws + 1 } ∧ t.flash.pages = s.flash.pages ∧
       t.flash.identity = s.flash.identity ∧
       ((∃ flags, w.target = .lockTable flags) → t.flash.config = s.flash.config) ∧
       ((∃ bytes, w.target = .config bytes) → t.flash.locks = s.flash.locks))) ∧
  (∀ (s : State) (flags : BitVec 64) (n x : Nat) (needed : Bool), s.log.op = .areaWrite →
      s.log.areaWrite = some ⟨.lockTable flags, n⟩ →
     s.log.state = .full → s.log.blocked = some ⟨x, needed⟩ →
     let u := (({ s with
       log := { s.log with op := .none, areaWrite := none, locks := flags }
       flash := { s.flash with locks := .of (lockBytes flags) } } : State).ok
         (.count (flagCount (flags ^^^ s.log.locks))))
     let ends := fun t : State => exec (.areaWriteEnd true) s = .next t.finish
     let erases := ends ((u.setPages (s.flash.pages.filter fun q => q.1 / 64 != x)).setLog { u.log with
       state := .opened, blocked := none, op := .erase x, writePos := some (64 * x), eraseDue := none })
     (sectionLocked flags x = true → ends u) ∧
     (sectionLocked flags x = false → needed = true ∨ newestRecord s.flash.pages = none → erases) ∧
     (∀ p r, sectionLocked flags x = false → needed = false → newestRecord s.flash.pages = some (p, r) →
       let open' := u.setLog { u.log with state := .opened, blocked := none, writePos := some p }
       (∀ q, nextEmptyAfter s.flash.pages p = some q →
         ends (open'.setLog { open'.log with writePos := some q })) ∧
       (nextEmptyAfter s.flash.pages p = none → sectionLocked flags ((p / 64 + 1) % 64) = false →
         ends (open'.setLog { open'.log with eraseDue := some ((p / 64 + 1) % 64) })) ∧
       (nextEmptyAfter s.flash.pages p = none → sectionLocked flags ((p / 64 + 1) % 64) = true →
         ends (open'.enterFull ((p / 64 + 1) % 64)))))

/-- READ_LOG, LOCK_SECTIONS, UNLOCK_SECTIONS and WRITE_CONFIG: refused in the order of their tests; READ_LOG answers
the pages, the other three wait for their area write. Of a failing configuration the first failing field is named, by
its first byte: the ranges in the order of the layout, the own reach, then the relations between the heights (the order
and the naming are the model's choice, log 20). -/
def Obligations.LogRequestsAreTestedInOrder : Prop :=
  (∀ bytes : List Byte,
    let n := fun start len => natOf ((bytes.drop start).take len)
    let h := fun start => signedOf 2 (n start 2)
    let within := fun (x low high : Nat) => decide (low ≤ x ∧ x ≤ high)
    let reach := fun r : Nat =>
      let at' := 4 + 3 * r
      (at', decide ((n at' 1 = 0 ∧ n (at' + 1) 1 = 0 ∧ n (at' + 2) 1 = 0) ∨
        (n at' 1 = 1 ∧ n (at' + 1) 1 ≤ n (at' + 2) 1 ∧ n (at' + 2) 1 < n 1 1)))
    let tests : List (Nat × Bool) :=
      [(0, within (n 0 1) 0 7), (1, within (n 1 1) 4 32), (2, within (n 2 2) 200 2000), reach 0, reach 1, reach 2,
       reach 3, reach 4, reach 5, reach 6, reach 7, (28, within (n 28 1) 0 3), (29, within (n 29 4) 0 4000000000),
       (33, within (n 33 2) 300 3000), (35, within (n 35 2) 50 1000), (37, decide (-4000 ≤ h 37 ∧ h 37 ≤ 8000)),
       (39, decide (-4000 ≤ h 39 ∧ h 39 ≤ 8000)), (41, within (n 41 2) 10 500), (43, within (n 43 2) 10 500),
       (45, within (n 45 2) 10 500), (47, within (n 47 1) 1 50), (4 + 3 * n 0 1, decide (n (4 + 3 * n 0 1) 1 = 1)),
       (39, decide (h 37 ≤ h 39)), (33, decide (h 37 ≤ (n 33 2 : Int) ∧ (n 33 2 : Int) ≤ h 39))]
    configFailure bytes = (tests.find? fun t => !t.2).map (·.1)) ∧
  ∀ s : State, s.Listens →
    let scanning := s.log.state = .scanning
    let asks := fun (c : Instr) (target : AreaTarget) =>
      exec c s = .next ((s.working c).setLog { s.log with areaWrite := some ⟨target, 0⟩ }).finish
    (∀ page count, let c := Instr.readLog page count
      let ranges := page ≤ 4095 ∧ 1 ≤ count ∧ count ≤ 8
      (¬ranges → exec c s = .next ((s.working c).invalid).finish) ∧
      (ranges → scanning → exec c s = .next ((s.working c).busy).finish) ∧
      (ranges → ¬scanning → exec c s = .next ((s.working c).ok (.log
        ((List.range count).map fun k => ⟨(page + k) % 4096, readPage s.flash.pages ((page + k) % 4096)⟩)
        s.log.locks s.log.writePos s.log.state)).finish)) ∧
    (∀ first last, let c := Instr.lockSections first last
      let outside := ∀ p, s.log.writePos = some p → p / 64 < first ∨ last < p / 64
      (scanning → exec c s = .next ((s.working c).busy).finish) ∧
      (¬scanning → ¬(first ≤ last ∧ last ≤ 63) → exec c s = .next ((s.working c).invalid).finish) ∧
      (¬scanning → first ≤ last → last ≤ 63 → ¬outside → exec c s = .next ((s.working c).invalid).finish) ∧
      (¬scanning → first ≤ last → last ≤ 63 → outside →
        asks c (.lockTable (s.log.locks ||| sectionMask first last)))) ∧
    (∀ first last, let c := Instr.unlockSections first last
      (s.pins.protect = true → exec c s = .next ((s.working c).shielded).finish) ∧
      (s.pins.protect = false → scanning → exec c s = .next ((s.working c).busy).finish) ∧
      (s.pins.protect = false → ¬scanning → ¬(first ≤ last ∧ last ≤ 63) →
        exec c s = .next ((s.working c).invalid).finish) ∧
      (s.pins.protect = false → ¬scanning → first ≤ last → last ≤ 63 →
        asks c (.lockTable (s.log.locks &&& ~~~(sectionMask first last))))) ∧
    (∀ bytes, let c := Instr.writeConfig bytes
      (s.pins.protect = true → exec c s = .next ((s.working c).shielded).finish) ∧
      (s.pins.protect = false → s.runningJob ≠ none ∨ scanning → exec c s = .next ((s.working c).busy).finish) ∧
      (∀ b, s.pins.protect = false → s.runningJob = none → ¬scanning → configFailure bytes = some b →
        exec c s = .next ((s.working c).reply .invalid (.fieldFailure b)).finish) ∧
      (s.pins.protect = false → s.runningJob = none → ¬scanning → configFailure bytes = none →
        asks c (.config bytes)))

/-! ## The controller port -/

/-- The exchange: a spoiled request is discarded and counted, one that meets a busy port is ignored and counted,
whatever it asks, an unknown code is answered INVALID, and an answer that has gone leaves the port IDLE. At a busy port
a spoiled request counts as ignored (log 24). Every answer echoes the request's code: a request leaves the port
ANSWERING, or WORKING when it waits for its area write. -/
def Obligations.PortTakesOneRequestAndEchoesItsCode : Prop :=
  (∀ s : State,
     let up := fun k : Nat => if k < 65535 then k + 1 else k
     let ignored : State := { s with port := { s.port with ignored := up s.port.ignored } }
     let spoiled : State := { s with port := { s.port with
       state := .idle, request := none, frameErrors := up s.port.frameErrors } }
     (s.Listens →
       exec .requestPauseTimeout s = .next spoiled ∧ exec .requestCheckFailed s = .next spoiled ∧
       (∀ code, exec (.unknownRequest code) s = .next ({ s with port := { s.port with
         state := .answering, request := some (.unknownRequest code)
         answer := some ⟨code, .invalid, .empty⟩ } } : State).finish)) ∧
     (s.roster.state ≠ .offline → s.port.state = .working ∨ s.port.state = .answering →
       exec .requestIgnored s = .next ignored ∧ exec .requestPauseTimeout s = .next ignored ∧
       exec .requestCheckFailed s = .next ignored ∧
       (∀ c, requestCode c ≠ 0 ∨ (∃ code, c = .unknownRequest code) → exec c s = .next ignored)) ∧
     (s.port.state = .answering → exec .answerSent s =
       .next { s with port := { s.port with state := .idle, request := none, answer := none } })) ∧
  (∀ (c : Instr) (s t : State), s.Listens → exec c s = .next t → requestCode c ≠ 0 →
     t.port.request = some c ∧
     ((t.port.state = .answering ∧ ∃ a, t.port.answer = some a ∧ a.code = requestCode c) ∨
       (t.port.state = .working ∧ ((∃ x y, c = .lockSections x y) ∨ (∃ x y, c = .unlockSections x y) ∨
         ∃ bytes, c = .writeConfig bytes))))

/-- STATUS and the reads answer OK with the state as it stands; STATUS takes the reported-flags snapshot, and STATUS
and READ_JOB_LIST mark the last result read. What each shows is said field by field; a queued job has no deadline and no
buffer call, which are the active job's. ACKNOWLEDGE clears every named flag that is set and stands in the
snapshot, and takes it out of the snapshot; STALE_PRESENT it touches in neither while a STALE entry stands (log 33);
clearing LINK_ERROR clears the six counters; the answer carries what was cleared and what still stands. (That the entries
of READ_TABLE go in the table's order is the model's choice, log 23.) -/
def Obligations.ReadsShowAndAcknowledgeClears : Prop :=
  (∀ s : State, s.Listens →
    let shows := fun (c : Instr) (p : AnswerPayload) =>
      exec c s = .next ({ s with port := s.answered c .ok p } : State).finish
    let read := s.jobs.lastResult.map fun r => { r with read := true }
    exec .status s = .next ({ s with
      port := { (s.answered .status .ok (.status s.view)) with snapshot := s.port.flags }
      jobs := { s.jobs with lastResult := read } } : State).finish ∧
    shows .readAccount (.account s.accountView) ∧
    shows .readTable (.table s.claims.table s.roster.ticketCounter s.claims.ownCounter) ∧
    shows .readIdentity (.identity s.identityView) ∧
    exec .readJobList s = .next ({ s with
      port := s.answered .readJobList .ok (.jobs (s.jobs.list.map s.jobView)
        (s.jobs.claimWait.map fun t => t.length - (s.time.clock - t.start).toNat) s.jobs.lastResult)
      jobs := { s.jobs with lastResult := read } } : State).finish) ∧
  (∀ s : State,
    let headroom := s.roster.config.map fun c => (s.account.balance : Int) - s.account.committed - c.floor
    let shown := fun b : Buffer => match b with
      | .free => BufferState.free
      | .filling _ => .filling
      | .ready _ => .ready
      | .committing _ => .committing
    s.view = {
      state := s.roster.state, isolation := s.roster.isolation, lastReset := s.roster.lastReset
      ownRank := s.roster.config.map (·.ownRank), clashed := s.roster.clashed, clock := s.time.clock
      flags := s.port.flags, peers := s.roster.peers, stack := s.holds.stack, pending := s.holds.pending
      mask := s.holds.mask, recorded := s.holds.recorded, lead := s.drive.lead, trail := s.drive.trail
      travel := s.drive.travel, driveErrors := s.drive.errors, contactLead := s.time.lead.on
      contactTrail := s.time.trail.on, hostLift := s.seq.hostLift, account := s.account.state
      balance := s.account.balance, committed := s.account.committed, headroom := headroom
      head := s.jobs.list.head?.map fun j => (j.tag, j.state), lastResult := s.jobs.lastResult
      logState := s.log.state, writePos := s.log.writePos, blocked := s.log.blocked, nextSeq := s.log.nextSeq
      failures := s.log.failures, bufA := shown s.log.bufA, bufB := shown s.log.bufB, framing := s.link.framing
      check := s.link.check, noise := s.link.noise, overrun := s.link.overrun, postDrop := s.link.postDrop
      lostArbitration := s.link.lostArbitration, queueLength := s.link.queue.length, inBreak := s.link.inBreak
      ignored := s.port.ignored, frameErrors := s.port.frameErrors } ∧
    s.accountView = {
      balance := s.account.balance, committed := s.account.committed, floor := s.roster.config.map (·.floor)
      applied := s.account.applied, ownNext := s.account.ownNext, state := s.account.state
      retainedLength := s.account.retained.length, retainedOldest := s.account.retained.head?.map (·.seq)
      retainedNewest := s.account.retained.getLast?.map (·.seq), holding := s.account.holding
      gaps := s.account.gaps, deferredDraw := s.account.deferredDraw, clampCount := s.account.clampCount
      sinceCheckpoint := s.account.sinceCheckpoint, headroom := headroom, rebaseNumber := s.account.rebaseNumber
      fetchTarget := s.account.fetchTarget, fetchTimer := s.account.fetchTimer
      checkpointPending := s.account.checkpointPending } ∧
    s.identityView = {
      identity := s.roster.identity, ownRank := s.roster.config.map (·.ownRank)
      reach := s.roster.config.bind fun c => c.reach[c.ownRank]
      digest := s.roster.config.map fun _ => s.roster.digest, config := s.roster.config
      pendingConfig := s.roster.pendingConfig } ∧
    ∀ j : Job,
      (j.state = .queued → s.jobView j = ⟨j, none, none⟩) ∧
      (j.state ≠ .queued → s.jobView j =
        ⟨j, s.jobs.claimWait.map fun t => t.start + BitVec.ofNat 32 t.length, s.log.call⟩)) ∧
  (∀ (s : State) (mask : BitVec 16), s.Listens →
    ∃ (t : State) (cleared : FlagSet), exec (.acknowledge mask) s = .next t.finish ∧
      t = { s with port := t.port, link := t.link } ∧
      t.port.answer = some ⟨0x02#8, .ok, .acknowledged cleared t.port.flags⟩ ∧
      (∀ f bit, (f, bit) ∈ [(Flag.jobEnd, 0), (.resultLost, 1), (.holdChange, 2), (.stalePresent, 3), (.logFull, 4),
          (.logFault, 5), (.accountEvent, 6), (.linkError, 7), (.peerChange, 8)] →
        cleared.has f = (mask.getLsbD bit && s.port.flags.has f && s.port.snapshot.has f &&
          !(f == .stalePresent && s.claims.table.any ClaimEntry.isStale)) ∧
        t.port.flags.has f = (s.port.flags.has f && !cleared.has f) ∧
        t.port.snapshot.has f = (s.port.snapshot.has f && !cleared.has f)) ∧
      (cleared.linkError = false → t.link = s.link) ∧
      (cleared.linkError = true → t.link = { s.link with
        framing := 0, check := 0, noise := 0, overrun := 0, postDrop := 0, lostArbitration := 0 }))
end

