-- ==== Sys2Proof/Laws/State.lean ====
section
/-! SUPPORT. What each named update of the state leaves in each field: one lemma per field and update, true by
unfolding, so that no later proof needs to unfold a record update. -/

set_option Elab.async false

namespace Sys2Proof.Machine

/-! ## setClock -/

@[simp] theorem setClock_pins (s : State) (c : Time) : (s.setClock c).pins = s.pins := rfl
@[simp] theorem setClock_roster (s : State) (c : Time) : (s.setClock c).roster = s.roster := rfl
@[simp] theorem setClock_claims (s : State) (c : Time) : (s.setClock c).claims = s.claims := rfl
@[simp] theorem setClock_account (s : State) (c : Time) : (s.setClock c).account = s.account := rfl
@[simp] theorem setClock_jobs (s : State) (c : Time) : (s.setClock c).jobs = s.jobs := rfl
@[simp] theorem setClock_programs (s : State) (c : Time) : (s.setClock c).programs = s.programs := rfl
@[simp] theorem setClock_seq (s : State) (c : Time) : (s.setClock c).seq = s.seq := rfl
@[simp] theorem setClock_drive (s : State) (c : Time) : (s.setClock c).drive = s.drive := rfl
@[simp] theorem setClock_time (s : State) (c : Time) : (s.setClock c).time = { s.time with clock := c } := rfl
@[simp] theorem setClock_holds (s : State) (c : Time) : (s.setClock c).holds = s.holds := rfl
@[simp] theorem setClock_log (s : State) (c : Time) : (s.setClock c).log = s.log := rfl
@[simp] theorem setClock_flash (s : State) (c : Time) : (s.setClock c).flash = s.flash := rfl
@[simp] theorem setClock_link (s : State) (c : Time) : (s.setClock c).link = s.link := rfl
@[simp] theorem setClock_port (s : State) (c : Time) : (s.setClock c).port = s.port := rfl
@[simp] theorem setClock_draws (s : State) (c : Time) : (s.setClock c).draws = s.draws := rfl
@[simp] theorem setClock_pending (s : State) (c : Time) : (s.setClock c).pending = s.pending := rfl

/-! ## raise -/

@[simp] theorem raise_pins (s : State) (f : Flag) : (s.raise f).pins = s.pins := rfl
@[simp] theorem raise_roster (s : State) (f : Flag) : (s.raise f).roster = s.roster := rfl
@[simp] theorem raise_claims (s : State) (f : Flag) : (s.raise f).claims = s.claims := rfl
@[simp] theorem raise_account (s : State) (f : Flag) : (s.raise f).account = s.account := rfl
@[simp] theorem raise_jobs (s : State) (f : Flag) : (s.raise f).jobs = s.jobs := rfl
@[simp] theorem raise_programs (s : State) (f : Flag) : (s.raise f).programs = s.programs := rfl
@[simp] theorem raise_seq (s : State) (f : Flag) : (s.raise f).seq = s.seq := rfl
@[simp] theorem raise_drive (s : State) (f : Flag) : (s.raise f).drive = s.drive := rfl
@[simp] theorem raise_time (s : State) (f : Flag) : (s.raise f).time = s.time := rfl
@[simp] theorem raise_holds (s : State) (f : Flag) : (s.raise f).holds = s.holds := rfl
@[simp] theorem raise_log (s : State) (f : Flag) : (s.raise f).log = s.log := rfl
@[simp] theorem raise_flash (s : State) (f : Flag) : (s.raise f).flash = s.flash := rfl
@[simp] theorem raise_link (s : State) (f : Flag) : (s.raise f).link = s.link := rfl
@[simp] theorem raise_port (s : State) (f : Flag) :
    (s.raise f).port = { s.port with flags := s.port.flags.raise f } := rfl
@[simp] theorem raise_draws (s : State) (f : Flag) : (s.raise f).draws = s.draws := rfl
@[simp] theorem raise_pending (s : State) (f : Flag) : (s.raise f).pending = s.pending := rfl

/-! ## countLink -/

@[simp] theorem countLink_pins (s : State) (c : LinkCounter) : (s.countLink c).pins = s.pins := rfl
@[simp] theorem countLink_roster (s : State) (c : LinkCounter) : (s.countLink c).roster = s.roster := rfl
@[simp] theorem countLink_claims (s : State) (c : LinkCounter) : (s.countLink c).claims = s.claims := rfl
@[simp] theorem countLink_account (s : State) (c : LinkCounter) : (s.countLink c).account = s.account := rfl
@[simp] theorem countLink_jobs (s : State) (c : LinkCounter) : (s.countLink c).jobs = s.jobs := rfl
@[simp] theorem countLink_programs (s : State) (c : LinkCounter) :
    (s.countLink c).programs = s.programs := rfl
@[simp] theorem countLink_seq (s : State) (c : LinkCounter) : (s.countLink c).seq = s.seq := rfl
@[simp] theorem countLink_drive (s : State) (c : LinkCounter) : (s.countLink c).drive = s.drive := rfl
@[simp] theorem countLink_time (s : State) (c : LinkCounter) : (s.countLink c).time = s.time := rfl
@[simp] theorem countLink_holds (s : State) (c : LinkCounter) : (s.countLink c).holds = s.holds := rfl
@[simp] theorem countLink_log (s : State) (c : LinkCounter) : (s.countLink c).log = s.log := rfl
@[simp] theorem countLink_flash (s : State) (c : LinkCounter) : (s.countLink c).flash = s.flash := rfl
@[simp] theorem countLink_link (s : State) (c : LinkCounter) : (s.countLink c).link = s.link.count c := rfl
@[simp] theorem countLink_port (s : State) (c : LinkCounter) :
    (s.countLink c).port = { s.port with flags := s.port.flags.raise .linkError } := rfl
@[simp] theorem countLink_draws (s : State) (c : LinkCounter) : (s.countLink c).draws = s.draws := rfl
@[simp] theorem countLink_pending (s : State) (c : LinkCounter) : (s.countLink c).pending = s.pending := rfl

/-! ## enqueue -/

@[simp] theorem enqueue_pins (s : State) (f : Frame) : (s.enqueue f).pins = s.pins := rfl
@[simp] theorem enqueue_roster (s : State) (f : Frame) : (s.enqueue f).roster = s.roster := rfl
@[simp] theorem enqueue_claims (s : State) (f : Frame) : (s.enqueue f).claims = s.claims := rfl
@[simp] theorem enqueue_account (s : State) (f : Frame) : (s.enqueue f).account = s.account := rfl
@[simp] theorem enqueue_jobs (s : State) (f : Frame) : (s.enqueue f).jobs = s.jobs := rfl
@[simp] theorem enqueue_programs (s : State) (f : Frame) : (s.enqueue f).programs = s.programs := rfl
@[simp] theorem enqueue_seq (s : State) (f : Frame) : (s.enqueue f).seq = s.seq := rfl
@[simp] theorem enqueue_drive (s : State) (f : Frame) : (s.enqueue f).drive = s.drive := rfl
@[simp] theorem enqueue_time (s : State) (f : Frame) : (s.enqueue f).time = s.time := rfl
@[simp] theorem enqueue_holds (s : State) (f : Frame) : (s.enqueue f).holds = s.holds := rfl
@[simp] theorem enqueue_log (s : State) (f : Frame) : (s.enqueue f).log = s.log := rfl
@[simp] theorem enqueue_flash (s : State) (f : Frame) : (s.enqueue f).flash = s.flash := rfl
@[simp] theorem enqueue_port (s : State) (f : Frame) : (s.enqueue f).port = s.port := rfl
@[simp] theorem enqueue_draws (s : State) (f : Frame) : (s.enqueue f).draws = s.draws := rfl
@[simp] theorem enqueue_pending (s : State) (f : Frame) : (s.enqueue f).pending = s.pending := rfl
@[simp] theorem enqueue_link (s : State) (f : Frame) :
    (s.enqueue f).link = { s.link with queue := s.link.queue ++ [f] } := rfl

/-! ## forgetMoves -/

@[simp] theorem forgetMoves_pins (s : State) : s.forgetMoves.pins = s.pins := rfl
@[simp] theorem forgetMoves_roster (s : State) : s.forgetMoves.roster = s.roster := rfl
@[simp] theorem forgetMoves_claims (s : State) : s.forgetMoves.claims = s.claims := rfl
@[simp] theorem forgetMoves_account (s : State) : s.forgetMoves.account = s.account := rfl
@[simp] theorem forgetMoves_jobs (s : State) : s.forgetMoves.jobs = s.jobs := rfl
@[simp] theorem forgetMoves_programs (s : State) : s.forgetMoves.programs = s.programs := rfl
@[simp] theorem forgetMoves_seq (s : State) : s.forgetMoves.seq = s.seq := rfl
@[simp] theorem forgetMoves_time (s : State) : s.forgetMoves.time = s.time := rfl
@[simp] theorem forgetMoves_holds (s : State) : s.forgetMoves.holds = s.holds := rfl
@[simp] theorem forgetMoves_log (s : State) : s.forgetMoves.log = s.log := rfl
@[simp] theorem forgetMoves_flash (s : State) : s.forgetMoves.flash = s.flash := rfl
@[simp] theorem forgetMoves_link (s : State) : s.forgetMoves.link = s.link := rfl
@[simp] theorem forgetMoves_port (s : State) : s.forgetMoves.port = s.port := rfl
@[simp] theorem forgetMoves_draws (s : State) : s.forgetMoves.draws = s.draws := rfl
@[simp] theorem forgetMoves_pending (s : State) : s.forgetMoves.pending = s.pending := rfl
@[simp] theorem forgetMoves_channel (s : State) (ch : Channel) :
    s.forgetMoves.channel ch = (s.channel ch).forget := by cases ch <;> rfl

/-! ## setChannel -/

@[simp] theorem setChannel_pins (s : State) (ch : Channel) (c : ChannelState) :
    (s.setChannel ch c).pins = s.pins := rfl
@[simp] theorem setChannel_roster (s : State) (ch : Channel) (c : ChannelState) :
    (s.setChannel ch c).roster = s.roster := rfl
@[simp] theorem setChannel_claims (s : State) (ch : Channel) (c : ChannelState) :
    (s.setChannel ch c).claims = s.claims := rfl
@[simp] theorem setChannel_account (s : State) (ch : Channel) (c : ChannelState) :
    (s.setChannel ch c).account = s.account := rfl
@[simp] theorem setChannel_jobs (s : State) (ch : Channel) (c : ChannelState) :
    (s.setChannel ch c).jobs = s.jobs := rfl
@[simp] theorem setChannel_programs (s : State) (ch : Channel) (c : ChannelState) :
    (s.setChannel ch c).programs = s.programs := rfl
@[simp] theorem setChannel_seq (s : State) (ch : Channel) (c : ChannelState) :
    (s.setChannel ch c).seq = s.seq := rfl
@[simp] theorem setChannel_drive (s : State) (ch : Channel) (c : ChannelState) :
    (s.setChannel ch c).drive = s.drive.set ch c := rfl
@[simp] theorem setChannel_time (s : State) (ch : Channel) (c : ChannelState) :
    (s.setChannel ch c).time = s.time := rfl
@[simp] theorem setChannel_holds (s : State) (ch : Channel) (c : ChannelState) :
    (s.setChannel ch c).holds = s.holds := rfl
@[simp] theorem setChannel_log (s : State) (ch : Channel) (c : ChannelState) :
    (s.setChannel ch c).log = s.log := rfl
@[simp] theorem setChannel_flash (s : State) (ch : Channel) (c : ChannelState) :
    (s.setChannel ch c).flash = s.flash := rfl
@[simp] theorem setChannel_link (s : State) (ch : Channel) (c : ChannelState) :
    (s.setChannel ch c).link = s.link := rfl
@[simp] theorem setChannel_port (s : State) (ch : Channel) (c : ChannelState) :
    (s.setChannel ch c).port = s.port := rfl
@[simp] theorem setChannel_draws (s : State) (ch : Channel) (c : ChannelState) :
    (s.setChannel ch c).draws = s.draws := rfl
@[simp] theorem setChannel_pending (s : State) (ch : Channel) (c : ChannelState) :
    (s.setChannel ch c).pending = s.pending := rfl

/-! ## postCommand -/

@[simp] theorem postCommand_pins (s : State) (ch : Channel) (c : DriveCommand) :
    (s.postCommand ch c).pins = s.pins := rfl
@[simp] theorem postCommand_roster (s : State) (ch : Channel) (c : DriveCommand) :
    (s.postCommand ch c).roster = s.roster := rfl
@[simp] theorem postCommand_claims (s : State) (ch : Channel) (c : DriveCommand) :
    (s.postCommand ch c).claims = s.claims := rfl
@[simp] theorem postCommand_account (s : State) (ch : Channel) (c : DriveCommand) :
    (s.postCommand ch c).account = s.account := rfl
@[simp] theorem postCommand_jobs (s : State) (ch : Channel) (c : DriveCommand) :
    (s.postCommand ch c).jobs = s.jobs := rfl
@[simp] theorem postCommand_programs (s : State) (ch : Channel) (c : DriveCommand) :
    (s.postCommand ch c).programs = s.programs := rfl
@[simp] theorem postCommand_seq (s : State) (ch : Channel) (c : DriveCommand) :
    (s.postCommand ch c).seq = s.seq := rfl
@[simp] theorem postCommand_drive (s : State) (ch : Channel) (c : DriveCommand) :
    (s.postCommand ch c).drive = s.drive.set ch ((s.channel ch).post c) := rfl
@[simp] theorem postCommand_time (s : State) (ch : Channel) (c : DriveCommand) :
    (s.postCommand ch c).time = s.time := rfl
@[simp] theorem postCommand_holds (s : State) (ch : Channel) (c : DriveCommand) :
    (s.postCommand ch c).holds = s.holds := rfl
@[simp] theorem postCommand_log (s : State) (ch : Channel) (c : DriveCommand) :
    (s.postCommand ch c).log = s.log := rfl
@[simp] theorem postCommand_flash (s : State) (ch : Channel) (c : DriveCommand) :
    (s.postCommand ch c).flash = s.flash := rfl
@[simp] theorem postCommand_link (s : State) (ch : Channel) (c : DriveCommand) :
    (s.postCommand ch c).link = s.link := rfl
@[simp] theorem postCommand_port (s : State) (ch : Channel) (c : DriveCommand) :
    (s.postCommand ch c).port = s.port := rfl
@[simp] theorem postCommand_draws (s : State) (ch : Channel) (c : DriveCommand) :
    (s.postCommand ch c).draws = s.draws := rfl
@[simp] theorem postCommand_pending (s : State) (ch : Channel) (c : DriveCommand) :
    (s.postCommand ch c).pending = s.pending := rfl

/-! ## setTable -/

@[simp] theorem setTable_pins (s : State) (t : List ClaimEntry) : (s.setTable t).pins = s.pins := rfl
@[simp] theorem setTable_roster (s : State) (t : List ClaimEntry) : (s.setTable t).roster = s.roster := rfl
@[simp] theorem setTable_claims (s : State) (t : List ClaimEntry) :
    (s.setTable t).claims = { s.claims with table := t } := rfl
@[simp] theorem setTable_account (s : State) (t : List ClaimEntry) :
    (s.setTable t).account = { s.account with committed := reservations t } := rfl
@[simp] theorem setTable_jobs (s : State) (t : List ClaimEntry) :
    (s.setTable t).jobs = { s.jobs with retestDue := s.jobs.retestDue || !sameClaims s.claims.table t } := rfl
@[simp] theorem setTable_programs (s : State) (t : List ClaimEntry) :
    (s.setTable t).programs = s.programs := rfl
@[simp] theorem setTable_seq (s : State) (t : List ClaimEntry) : (s.setTable t).seq = s.seq := rfl
@[simp] theorem setTable_drive (s : State) (t : List ClaimEntry) : (s.setTable t).drive = s.drive := rfl
@[simp] theorem setTable_time (s : State) (t : List ClaimEntry) : (s.setTable t).time = s.time := rfl
@[simp] theorem setTable_holds (s : State) (t : List ClaimEntry) : (s.setTable t).holds = s.holds := rfl
@[simp] theorem setTable_log (s : State) (t : List ClaimEntry) : (s.setTable t).log = s.log := rfl
@[simp] theorem setTable_flash (s : State) (t : List ClaimEntry) : (s.setTable t).flash = s.flash := rfl
@[simp] theorem setTable_link (s : State) (t : List ClaimEntry) : (s.setTable t).link = s.link := rfl
@[simp] theorem setTable_port (s : State) (t : List ClaimEntry) :
    (s.setTable t).port =
      { s.port with flags := { s.port.flags with stalePresent := t.any ClaimEntry.isStale } } := rfl
@[simp] theorem setTable_draws (s : State) (t : List ClaimEntry) : (s.setTable t).draws = s.draws := rfl
@[simp] theorem setTable_pending (s : State) (t : List ClaimEntry) : (s.setTable t).pending = s.pending := rfl

/-! ## raiseTicket -/

@[simp] theorem raiseTicket_pins (s : State) (v : Nat) : (s.raiseTicket v).pins = s.pins := rfl
@[simp] theorem raiseTicket_roster (s : State) (v : Nat) :
    (s.raiseTicket v).roster = { s.roster with ticketCounter := max s.roster.ticketCounter v } := rfl
@[simp] theorem raiseTicket_claims (s : State) (v : Nat) : (s.raiseTicket v).claims = s.claims := rfl
@[simp] theorem raiseTicket_account (s : State) (v : Nat) : (s.raiseTicket v).account = s.account := rfl
@[simp] theorem raiseTicket_jobs (s : State) (v : Nat) : (s.raiseTicket v).jobs = s.jobs := rfl
@[simp] theorem raiseTicket_programs (s : State) (v : Nat) : (s.raiseTicket v).programs = s.programs := rfl
@[simp] theorem raiseTicket_seq (s : State) (v : Nat) : (s.raiseTicket v).seq = s.seq := rfl
@[simp] theorem raiseTicket_drive (s : State) (v : Nat) : (s.raiseTicket v).drive = s.drive := rfl
@[simp] theorem raiseTicket_time (s : State) (v : Nat) : (s.raiseTicket v).time = s.time := rfl
@[simp] theorem raiseTicket_holds (s : State) (v : Nat) : (s.raiseTicket v).holds = s.holds := rfl
@[simp] theorem raiseTicket_log (s : State) (v : Nat) : (s.raiseTicket v).log = s.log := rfl
@[simp] theorem raiseTicket_flash (s : State) (v : Nat) : (s.raiseTicket v).flash = s.flash := rfl
@[simp] theorem raiseTicket_link (s : State) (v : Nat) : (s.raiseTicket v).link = s.link := rfl
@[simp] theorem raiseTicket_port (s : State) (v : Nat) : (s.raiseTicket v).port = s.port := rfl
@[simp] theorem raiseTicket_draws (s : State) (v : Nat) : (s.raiseTicket v).draws = s.draws := rfl
@[simp] theorem raiseTicket_pending (s : State) (v : Nat) : (s.raiseTicket v).pending = s.pending := rfl

/-! ## setPeer -/

@[simp] theorem setPeer_pins (s : State) (r : Rank) (p : Peer) : (s.setPeer r p).pins = s.pins := rfl
@[simp] theorem setPeer_roster (s : State) (r : Rank) (p : Peer) :
    (s.setPeer r p).roster = { s.roster with peers := s.roster.peers.set r p } := rfl
@[simp] theorem setPeer_claims (s : State) (r : Rank) (p : Peer) : (s.setPeer r p).claims = s.claims := rfl
@[simp] theorem setPeer_account (s : State) (r : Rank) (p : Peer) : (s.setPeer r p).account = s.account := rfl
@[simp] theorem setPeer_jobs (s : State) (r : Rank) (p : Peer) : (s.setPeer r p).jobs = s.jobs := rfl
@[simp] theorem setPeer_programs (s : State) (r : Rank) (p : Peer) :
    (s.setPeer r p).programs = s.programs := rfl
@[simp] theorem setPeer_seq (s : State) (r : Rank) (p : Peer) : (s.setPeer r p).seq = s.seq := rfl
@[simp] theorem setPeer_drive (s : State) (r : Rank) (p : Peer) : (s.setPeer r p).drive = s.drive := rfl
@[simp] theorem setPeer_time (s : State) (r : Rank) (p : Peer) : (s.setPeer r p).time = s.time := rfl
@[simp] theorem setPeer_holds (s : State) (r : Rank) (p : Peer) : (s.setPeer r p).holds = s.holds := rfl
@[simp] theorem setPeer_log (s : State) (r : Rank) (p : Peer) : (s.setPeer r p).log = s.log := rfl
@[simp] theorem setPeer_flash (s : State) (r : Rank) (p : Peer) : (s.setPeer r p).flash = s.flash := rfl
@[simp] theorem setPeer_link (s : State) (r : Rank) (p : Peer) : (s.setPeer r p).link = s.link := rfl
@[simp] theorem setPeer_port (s : State) (r : Rank) (p : Peer) : (s.setPeer r p).port = s.port := rfl
@[simp] theorem setPeer_draws (s : State) (r : Rank) (p : Peer) : (s.setPeer r p).draws = s.draws := rfl
@[simp] theorem setPeer_pending (s : State) (r : Rank) (p : Peer) : (s.setPeer r p).pending = s.pending := rfl

/-! ## setApplied -/

@[simp] theorem setApplied_pins (s : State) (r : Rank) (n : Nat) : (s.setApplied r n).pins = s.pins := rfl
@[simp] theorem setApplied_roster (s : State) (r : Rank) (n : Nat) :
    (s.setApplied r n).roster = s.roster := rfl
@[simp] theorem setApplied_claims (s : State) (r : Rank) (n : Nat) :
    (s.setApplied r n).claims = s.claims := rfl
@[simp] theorem setApplied_account (s : State) (r : Rank) (n : Nat) :
    (s.setApplied r n).account = { s.account with applied := s.account.applied.set r n } := rfl
@[simp] theorem setApplied_jobs (s : State) (r : Rank) (n : Nat) : (s.setApplied r n).jobs = s.jobs := rfl
@[simp] theorem setApplied_programs (s : State) (r : Rank) (n : Nat) :
    (s.setApplied r n).programs = s.programs := rfl
@[simp] theorem setApplied_seq (s : State) (r : Rank) (n : Nat) : (s.setApplied r n).seq = s.seq := rfl
@[simp] theorem setApplied_drive (s : State) (r : Rank) (n : Nat) : (s.setApplied r n).drive = s.drive := rfl
@[simp] theorem setApplied_time (s : State) (r : Rank) (n : Nat) : (s.setApplied r n).time = s.time := rfl
@[simp] theorem setApplied_holds (s : State) (r : Rank) (n : Nat) : (s.setApplied r n).holds = s.holds := rfl
@[simp] theorem setApplied_log (s : State) (r : Rank) (n : Nat) : (s.setApplied r n).log = s.log := rfl
@[simp] theorem setApplied_flash (s : State) (r : Rank) (n : Nat) : (s.setApplied r n).flash = s.flash := rfl
@[simp] theorem setApplied_link (s : State) (r : Rank) (n : Nat) : (s.setApplied r n).link = s.link := rfl
@[simp] theorem setApplied_port (s : State) (r : Rank) (n : Nat) : (s.setApplied r n).port = s.port := rfl
@[simp] theorem setApplied_draws (s : State) (r : Rank) (n : Nat) : (s.setApplied r n).draws = s.draws := rfl
@[simp] theorem setApplied_pending (s : State) (r : Rank) (n : Nat) :
    (s.setApplied r n).pending = s.pending := rfl

/-! ## setGap -/

@[simp] theorem setGap_pins (s : State) (r : Rank) (g : Option OpenGap) : (s.setGap r g).pins = s.pins := rfl
@[simp] theorem setGap_roster (s : State) (r : Rank) (g : Option OpenGap) :
    (s.setGap r g).roster = s.roster := rfl
@[simp] theorem setGap_claims (s : State) (r : Rank) (g : Option OpenGap) :
    (s.setGap r g).claims = s.claims := rfl
@[simp] theorem setGap_account (s : State) (r : Rank) (g : Option OpenGap) :
    (s.setGap r g).account = { s.account with gaps := s.account.gaps.set r g } := rfl
@[simp] theorem setGap_jobs (s : State) (r : Rank) (g : Option OpenGap) : (s.setGap r g).jobs = s.jobs := rfl
@[simp] theorem setGap_programs (s : State) (r : Rank) (g : Option OpenGap) :
    (s.setGap r g).programs = s.programs := rfl
@[simp] theorem setGap_seq (s : State) (r : Rank) (g : Option OpenGap) : (s.setGap r g).seq = s.seq := rfl
@[simp] theorem setGap_drive (s : State) (r : Rank) (g : Option OpenGap) :
    (s.setGap r g).drive = s.drive := rfl
@[simp] theorem setGap_time (s : State) (r : Rank) (g : Option OpenGap) : (s.setGap r g).time = s.time := rfl
@[simp] theorem setGap_holds (s : State) (r : Rank) (g : Option OpenGap) :
    (s.setGap r g).holds = s.holds := rfl
@[simp] theorem setGap_log (s : State) (r : Rank) (g : Option OpenGap) : (s.setGap r g).log = s.log := rfl
@[simp] theorem setGap_flash (s : State) (r : Rank) (g : Option OpenGap) :
    (s.setGap r g).flash = s.flash := rfl
@[simp] theorem setGap_link (s : State) (r : Rank) (g : Option OpenGap) : (s.setGap r g).link = s.link := rfl
@[simp] theorem setGap_port (s : State) (r : Rank) (g : Option OpenGap) : (s.setGap r g).port = s.port := rfl
@[simp] theorem setGap_draws (s : State) (r : Rank) (g : Option OpenGap) :
    (s.setGap r g).draws = s.draws := rfl
@[simp] theorem setGap_pending (s : State) (r : Rank) (g : Option OpenGap) :
    (s.setGap r g).pending = s.pending := rfl

/-! ## setAccountState -/

@[simp] theorem setAccountState_pins (s : State) (a : AccountState) :
    (s.setAccountState a).pins = s.pins := rfl
@[simp] theorem setAccountState_roster (s : State) (a : AccountState) :
    (s.setAccountState a).roster = s.roster := rfl
@[simp] theorem setAccountState_claims (s : State) (a : AccountState) :
    (s.setAccountState a).claims = s.claims := rfl
@[simp] theorem setAccountState_account (s : State) (a : AccountState) :
    (s.setAccountState a).account = { s.account with state := a } := rfl
@[simp] theorem setAccountState_jobs (s : State) (a : AccountState) :
    (s.setAccountState a).jobs = { s.jobs with retestDue := true } := rfl
@[simp] theorem setAccountState_programs (s : State) (a : AccountState) :
    (s.setAccountState a).programs = s.programs := rfl
@[simp] theorem setAccountState_seq (s : State) (a : AccountState) : (s.setAccountState a).seq = s.seq := rfl
@[simp] theorem setAccountState_drive (s : State) (a : AccountState) :
    (s.setAccountState a).drive = s.drive := rfl
@[simp] theorem setAccountState_time (s : State) (a : AccountState) :
    (s.setAccountState a).time = s.time := rfl
@[simp] theorem setAccountState_holds (s : State) (a : AccountState) :
    (s.setAccountState a).holds = s.holds := rfl
@[simp] theorem setAccountState_log (s : State) (a : AccountState) : (s.setAccountState a).log = s.log := rfl
@[simp] theorem setAccountState_flash (s : State) (a : AccountState) :
    (s.setAccountState a).flash = s.flash := rfl
@[simp] theorem setAccountState_link (s : State) (a : AccountState) :
    (s.setAccountState a).link = s.link := rfl
@[simp] theorem setAccountState_port (s : State) (a : AccountState) :
    (s.setAccountState a).port = s.port := rfl
@[simp] theorem setAccountState_draws (s : State) (a : AccountState) :
    (s.setAccountState a).draws = s.draws := rfl
@[simp] theorem setAccountState_pending (s : State) (a : AccountState) :
    (s.setAccountState a).pending = s.pending := rfl

/-! ## setAccount -/

@[simp] theorem setAccount_pins (s : State) (a : Account) : (s.setAccount a).pins = s.pins := rfl
@[simp] theorem setAccount_roster (s : State) (a : Account) : (s.setAccount a).roster = s.roster := rfl
@[simp] theorem setAccount_claims (s : State) (a : Account) : (s.setAccount a).claims = s.claims := rfl
@[simp] theorem setAccount_account (s : State) (a : Account) : (s.setAccount a).account = a := rfl
@[simp] theorem setAccount_jobs (s : State) (a : Account) : (s.setAccount a).jobs = s.jobs := rfl
@[simp] theorem setAccount_programs (s : State) (a : Account) : (s.setAccount a).programs = s.programs := rfl
@[simp] theorem setAccount_seq (s : State) (a : Account) : (s.setAccount a).seq = s.seq := rfl
@[simp] theorem setAccount_drive (s : State) (a : Account) : (s.setAccount a).drive = s.drive := rfl
@[simp] theorem setAccount_time (s : State) (a : Account) : (s.setAccount a).time = s.time := rfl
@[simp] theorem setAccount_holds (s : State) (a : Account) : (s.setAccount a).holds = s.holds := rfl
@[simp] theorem setAccount_log (s : State) (a : Account) : (s.setAccount a).log = s.log := rfl
@[simp] theorem setAccount_flash (s : State) (a : Account) : (s.setAccount a).flash = s.flash := rfl
@[simp] theorem setAccount_link (s : State) (a : Account) : (s.setAccount a).link = s.link := rfl
@[simp] theorem setAccount_port (s : State) (a : Account) : (s.setAccount a).port = s.port := rfl
@[simp] theorem setAccount_draws (s : State) (a : Account) : (s.setAccount a).draws = s.draws := rfl
@[simp] theorem setAccount_pending (s : State) (a : Account) : (s.setAccount a).pending = s.pending := rfl

/-! ## setClaimWait -/

@[simp] theorem setClaimWait_pins (s : State) (t : Option Timer) : (s.setClaimWait t).pins = s.pins := rfl
@[simp] theorem setClaimWait_roster (s : State) (t : Option Timer) :
    (s.setClaimWait t).roster = s.roster := rfl
@[simp] theorem setClaimWait_claims (s : State) (t : Option Timer) :
    (s.setClaimWait t).claims = s.claims := rfl
@[simp] theorem setClaimWait_account (s : State) (t : Option Timer) :
    (s.setClaimWait t).account = s.account := rfl
@[simp] theorem setClaimWait_jobs (s : State) (t : Option Timer) :
    (s.setClaimWait t).jobs = { s.jobs with claimWait := t } := rfl
@[simp] theorem setClaimWait_programs (s : State) (t : Option Timer) :
    (s.setClaimWait t).programs = s.programs := rfl
@[simp] theorem setClaimWait_seq (s : State) (t : Option Timer) : (s.setClaimWait t).seq = s.seq := rfl
@[simp] theorem setClaimWait_drive (s : State) (t : Option Timer) : (s.setClaimWait t).drive = s.drive := rfl
@[simp] theorem setClaimWait_time (s : State) (t : Option Timer) : (s.setClaimWait t).time = s.time := rfl
@[simp] theorem setClaimWait_holds (s : State) (t : Option Timer) : (s.setClaimWait t).holds = s.holds := rfl
@[simp] theorem setClaimWait_log (s : State) (t : Option Timer) : (s.setClaimWait t).log = s.log := rfl
@[simp] theorem setClaimWait_flash (s : State) (t : Option Timer) : (s.setClaimWait t).flash = s.flash := rfl
@[simp] theorem setClaimWait_link (s : State) (t : Option Timer) : (s.setClaimWait t).link = s.link := rfl
@[simp] theorem setClaimWait_port (s : State) (t : Option Timer) : (s.setClaimWait t).port = s.port := rfl
@[simp] theorem setClaimWait_draws (s : State) (t : Option Timer) : (s.setClaimWait t).draws = s.draws := rfl
@[simp] theorem setClaimWait_pending (s : State) (t : Option Timer) :
    (s.setClaimWait t).pending = s.pending := rfl

/-! ## setBuffer -/

@[simp] theorem setBuffer_pins (s : State) (i : BufferId) (b : Buffer) :
    (s.setBuffer i b).pins = s.pins := rfl
@[simp] theorem setBuffer_roster (s : State) (i : BufferId) (b : Buffer) :
    (s.setBuffer i b).roster = s.roster := rfl
@[simp] theorem setBuffer_claims (s : State) (i : BufferId) (b : Buffer) :
    (s.setBuffer i b).claims = s.claims := rfl
@[simp] theorem setBuffer_account (s : State) (i : BufferId) (b : Buffer) :
    (s.setBuffer i b).account = s.account := rfl
@[simp] theorem setBuffer_jobs (s : State) (i : BufferId) (b : Buffer) :
    (s.setBuffer i b).jobs = s.jobs := rfl
@[simp] theorem setBuffer_programs (s : State) (i : BufferId) (b : Buffer) :
    (s.setBuffer i b).programs = s.programs := rfl
@[simp] theorem setBuffer_seq (s : State) (i : BufferId) (b : Buffer) : (s.setBuffer i b).seq = s.seq := rfl
@[simp] theorem setBuffer_drive (s : State) (i : BufferId) (b : Buffer) :
    (s.setBuffer i b).drive = s.drive := rfl
@[simp] theorem setBuffer_time (s : State) (i : BufferId) (b : Buffer) :
    (s.setBuffer i b).time = s.time := rfl
@[simp] theorem setBuffer_holds (s : State) (i : BufferId) (b : Buffer) :
    (s.setBuffer i b).holds = s.holds := rfl
@[simp] theorem setBuffer_log (s : State) (i : BufferId) (b : Buffer) :
    (s.setBuffer i b).log = s.log.setBuffer i b := rfl
@[simp] theorem setBuffer_flash (s : State) (i : BufferId) (b : Buffer) :
    (s.setBuffer i b).flash = s.flash := rfl
@[simp] theorem setBuffer_link (s : State) (i : BufferId) (b : Buffer) :
    (s.setBuffer i b).link = s.link := rfl
@[simp] theorem setBuffer_port (s : State) (i : BufferId) (b : Buffer) :
    (s.setBuffer i b).port = s.port := rfl
@[simp] theorem setBuffer_draws (s : State) (i : BufferId) (b : Buffer) :
    (s.setBuffer i b).draws = s.draws := rfl
@[simp] theorem setBuffer_pending (s : State) (i : BufferId) (b : Buffer) :
    (s.setBuffer i b).pending = s.pending := rfl

/-! ## placeReady -/

@[simp] theorem placeReady_pins (s : State) (i : BufferId) (b : RecordBody) :
    (s.placeReady i b).pins = s.pins := rfl
@[simp] theorem placeReady_roster (s : State) (i : BufferId) (b : RecordBody) :
    (s.placeReady i b).roster = s.roster := rfl
@[simp] theorem placeReady_claims (s : State) (i : BufferId) (b : RecordBody) :
    (s.placeReady i b).claims = s.claims := rfl
@[simp] theorem placeReady_account (s : State) (i : BufferId) (b : RecordBody) :
    (s.placeReady i b).account = s.account := rfl
@[simp] theorem placeReady_jobs (s : State) (i : BufferId) (b : RecordBody) :
    (s.placeReady i b).jobs = s.jobs := rfl
@[simp] theorem placeReady_programs (s : State) (i : BufferId) (b : RecordBody) :
    (s.placeReady i b).programs = s.programs := rfl
@[simp] theorem placeReady_seq (s : State) (i : BufferId) (b : RecordBody) :
    (s.placeReady i b).seq = s.seq := rfl
@[simp] theorem placeReady_drive (s : State) (i : BufferId) (b : RecordBody) :
    (s.placeReady i b).drive = s.drive := rfl
@[simp] theorem placeReady_time (s : State) (i : BufferId) (b : RecordBody) :
    (s.placeReady i b).time = s.time := rfl
@[simp] theorem placeReady_holds (s : State) (i : BufferId) (b : RecordBody) :
    (s.placeReady i b).holds = s.holds := rfl
@[simp] theorem placeReady_log (s : State) (i : BufferId) (b : RecordBody) :
    (s.placeReady i b).log =
      { s.log.setBuffer i (.ready ⟨s.log.nextSeq, s.now, b⟩) with
      nextSeq := heldInc s.log.nextSeq, lastReady := some i } := rfl
@[simp] theorem placeReady_flash (s : State) (i : BufferId) (b : RecordBody) :
    (s.placeReady i b).flash = s.flash := rfl
@[simp] theorem placeReady_link (s : State) (i : BufferId) (b : RecordBody) :
    (s.placeReady i b).link = s.link := rfl
@[simp] theorem placeReady_port (s : State) (i : BufferId) (b : RecordBody) :
    (s.placeReady i b).port = s.port := rfl
@[simp] theorem placeReady_draws (s : State) (i : BufferId) (b : RecordBody) :
    (s.placeReady i b).draws = s.draws := rfl
@[simp] theorem placeReady_pending (s : State) (i : BufferId) (b : RecordBody) :
    (s.placeReady i b).pending = s.pending := rfl

/-! ## setSeq -/

@[simp] theorem setSeq_pins (s : State) (q : Sequencer) : (s.setSeq q).pins = s.pins := rfl
@[simp] theorem setSeq_roster (s : State) (q : Sequencer) : (s.setSeq q).roster = s.roster := rfl
@[simp] theorem setSeq_claims (s : State) (q : Sequencer) : (s.setSeq q).claims = s.claims := rfl
@[simp] theorem setSeq_account (s : State) (q : Sequencer) : (s.setSeq q).account = s.account := rfl
@[simp] theorem setSeq_jobs (s : State) (q : Sequencer) : (s.setSeq q).jobs = s.jobs := rfl
@[simp] theorem setSeq_programs (s : State) (q : Sequencer) : (s.setSeq q).programs = s.programs := rfl
@[simp] theorem setSeq_seq (s : State) (q : Sequencer) : (s.setSeq q).seq = q := rfl
@[simp] theorem setSeq_drive (s : State) (q : Sequencer) : (s.setSeq q).drive = s.drive := rfl
@[simp] theorem setSeq_time (s : State) (q : Sequencer) : (s.setSeq q).time = s.time := rfl
@[simp] theorem setSeq_holds (s : State) (q : Sequencer) : (s.setSeq q).holds = s.holds := rfl
@[simp] theorem setSeq_log (s : State) (q : Sequencer) : (s.setSeq q).log = s.log := rfl
@[simp] theorem setSeq_flash (s : State) (q : Sequencer) : (s.setSeq q).flash = s.flash := rfl
@[simp] theorem setSeq_link (s : State) (q : Sequencer) : (s.setSeq q).link = s.link := rfl
@[simp] theorem setSeq_port (s : State) (q : Sequencer) : (s.setSeq q).port = s.port := rfl
@[simp] theorem setSeq_draws (s : State) (q : Sequencer) : (s.setSeq q).draws = s.draws := rfl
@[simp] theorem setSeq_pending (s : State) (q : Sequencer) : (s.setSeq q).pending = s.pending := rfl

/-! ## setHolds -/

@[simp] theorem setHolds_pins (s : State) (h : HoldController) : (s.setHolds h).pins = s.pins := rfl
@[simp] theorem setHolds_roster (s : State) (h : HoldController) : (s.setHolds h).roster = s.roster := rfl
@[simp] theorem setHolds_claims (s : State) (h : HoldController) : (s.setHolds h).claims = s.claims := rfl
@[simp] theorem setHolds_account (s : State) (h : HoldController) : (s.setHolds h).account = s.account := rfl
@[simp] theorem setHolds_jobs (s : State) (h : HoldController) : (s.setHolds h).jobs = s.jobs := rfl
@[simp] theorem setHolds_programs (s : State) (h : HoldController) :
    (s.setHolds h).programs = s.programs := rfl
@[simp] theorem setHolds_seq (s : State) (h : HoldController) : (s.setHolds h).seq = s.seq := rfl
@[simp] theorem setHolds_drive (s : State) (h : HoldController) : (s.setHolds h).drive = s.drive := rfl
@[simp] theorem setHolds_time (s : State) (h : HoldController) : (s.setHolds h).time = s.time := rfl
@[simp] theorem setHolds_holds (s : State) (h : HoldController) : (s.setHolds h).holds = h := rfl
@[simp] theorem setHolds_log (s : State) (h : HoldController) : (s.setHolds h).log = s.log := rfl
@[simp] theorem setHolds_flash (s : State) (h : HoldController) : (s.setHolds h).flash = s.flash := rfl
@[simp] theorem setHolds_link (s : State) (h : HoldController) : (s.setHolds h).link = s.link := rfl
@[simp] theorem setHolds_port (s : State) (h : HoldController) : (s.setHolds h).port = s.port := rfl
@[simp] theorem setHolds_draws (s : State) (h : HoldController) : (s.setHolds h).draws = s.draws := rfl
@[simp] theorem setHolds_pending (s : State) (h : HoldController) : (s.setHolds h).pending = s.pending := rfl

/-! ## setLog -/

@[simp] theorem setLog_pins (s : State) (l : LogStore) : (s.setLog l).pins = s.pins := rfl
@[simp] theorem setLog_roster (s : State) (l : LogStore) : (s.setLog l).roster = s.roster := rfl
@[simp] theorem setLog_claims (s : State) (l : LogStore) : (s.setLog l).claims = s.claims := rfl
@[simp] theorem setLog_account (s : State) (l : LogStore) : (s.setLog l).account = s.account := rfl
@[simp] theorem setLog_jobs (s : State) (l : LogStore) : (s.setLog l).jobs = s.jobs := rfl
@[simp] theorem setLog_programs (s : State) (l : LogStore) : (s.setLog l).programs = s.programs := rfl
@[simp] theorem setLog_seq (s : State) (l : LogStore) : (s.setLog l).seq = s.seq := rfl
@[simp] theorem setLog_drive (s : State) (l : LogStore) : (s.setLog l).drive = s.drive := rfl
@[simp] theorem setLog_time (s : State) (l : LogStore) : (s.setLog l).time = s.time := rfl
@[simp] theorem setLog_holds (s : State) (l : LogStore) : (s.setLog l).holds = s.holds := rfl
@[simp] theorem setLog_log (s : State) (l : LogStore) : (s.setLog l).log = l := rfl
@[simp] theorem setLog_flash (s : State) (l : LogStore) : (s.setLog l).flash = s.flash := rfl
@[simp] theorem setLog_link (s : State) (l : LogStore) : (s.setLog l).link = s.link := rfl
@[simp] theorem setLog_port (s : State) (l : LogStore) : (s.setLog l).port = s.port := rfl
@[simp] theorem setLog_draws (s : State) (l : LogStore) : (s.setLog l).draws = s.draws := rfl
@[simp] theorem setLog_pending (s : State) (l : LogStore) : (s.setLog l).pending = s.pending := rfl

/-! ## setPages -/

@[simp] theorem setPages_pins (s : State) (p : List (Nat × PageContent)) : (s.setPages p).pins = s.pins := rfl
@[simp] theorem setPages_roster (s : State) (p : List (Nat × PageContent)) :
    (s.setPages p).roster = s.roster := rfl
@[simp] theorem setPages_claims (s : State) (p : List (Nat × PageContent)) :
    (s.setPages p).claims = s.claims := rfl
@[simp] theorem setPages_account (s : State) (p : List (Nat × PageContent)) :
    (s.setPages p).account = s.account := rfl
@[simp] theorem setPages_jobs (s : State) (p : List (Nat × PageContent)) : (s.setPages p).jobs = s.jobs := rfl
@[simp] theorem setPages_programs (s : State) (p : List (Nat × PageContent)) :
    (s.setPages p).programs = s.programs := rfl
@[simp] theorem setPages_seq (s : State) (p : List (Nat × PageContent)) : (s.setPages p).seq = s.seq := rfl
@[simp] theorem setPages_drive (s : State) (p : List (Nat × PageContent)) :
    (s.setPages p).drive = s.drive := rfl
@[simp] theorem setPages_time (s : State) (p : List (Nat × PageContent)) : (s.setPages p).time = s.time := rfl
@[simp] theorem setPages_holds (s : State) (p : List (Nat × PageContent)) :
    (s.setPages p).holds = s.holds := rfl
@[simp] theorem setPages_log (s : State) (p : List (Nat × PageContent)) : (s.setPages p).log = s.log := rfl
@[simp] theorem setPages_flash (s : State) (p : List (Nat × PageContent)) :
    (s.setPages p).flash = { s.flash with pages := p } := rfl
@[simp] theorem setPages_link (s : State) (p : List (Nat × PageContent)) : (s.setPages p).link = s.link := rfl
@[simp] theorem setPages_port (s : State) (p : List (Nat × PageContent)) : (s.setPages p).port = s.port := rfl
@[simp] theorem setPages_draws (s : State) (p : List (Nat × PageContent)) :
    (s.setPages p).draws = s.draws := rfl
@[simp] theorem setPages_pending (s : State) (p : List (Nat × PageContent)) :
    (s.setPages p).pending = s.pending := rfl

/-! ## setStation -/

@[simp] theorem setStation_pins (s : State) (x : StationState) : (s.setStation x).pins = s.pins := rfl
@[simp] theorem setStation_roster (s : State) (x : StationState) :
    (s.setStation x).roster = { s.roster with state := x } := rfl
@[simp] theorem setStation_claims (s : State) (x : StationState) : (s.setStation x).claims = s.claims := rfl
@[simp] theorem setStation_account (s : State) (x : StationState) :
    (s.setStation x).account = s.account := rfl
@[simp] theorem setStation_jobs (s : State) (x : StationState) : (s.setStation x).jobs = s.jobs := rfl
@[simp] theorem setStation_programs (s : State) (x : StationState) :
    (s.setStation x).programs = s.programs := rfl
@[simp] theorem setStation_seq (s : State) (x : StationState) : (s.setStation x).seq = s.seq := rfl
@[simp] theorem setStation_drive (s : State) (x : StationState) : (s.setStation x).drive = s.drive := rfl
@[simp] theorem setStation_time (s : State) (x : StationState) : (s.setStation x).time = s.time := rfl
@[simp] theorem setStation_holds (s : State) (x : StationState) : (s.setStation x).holds = s.holds := rfl
@[simp] theorem setStation_log (s : State) (x : StationState) : (s.setStation x).log = s.log := rfl
@[simp] theorem setStation_flash (s : State) (x : StationState) : (s.setStation x).flash = s.flash := rfl
@[simp] theorem setStation_link (s : State) (x : StationState) : (s.setStation x).link = s.link := rfl
@[simp] theorem setStation_port (s : State) (x : StationState) : (s.setStation x).port = s.port := rfl
@[simp] theorem setStation_draws (s : State) (x : StationState) : (s.setStation x).draws = s.draws := rfl
@[simp] theorem setStation_pending (s : State) (x : StationState) :
    (s.setStation x).pending = s.pending := rfl

/-! ## answer -/

@[simp] theorem answer_pins (s : State) (c : Byte) (x : Status) (p : AnswerPayload) :
    (s.answer c x p).pins = s.pins := rfl
@[simp] theorem answer_roster (s : State) (c : Byte) (x : Status) (p : AnswerPayload) :
    (s.answer c x p).roster = s.roster := rfl
@[simp] theorem answer_claims (s : State) (c : Byte) (x : Status) (p : AnswerPayload) :
    (s.answer c x p).claims = s.claims := rfl
@[simp] theorem answer_account (s : State) (c : Byte) (x : Status) (p : AnswerPayload) :
    (s.answer c x p).account = s.account := rfl
@[simp] theorem answer_jobs (s : State) (c : Byte) (x : Status) (p : AnswerPayload) :
    (s.answer c x p).jobs = s.jobs := rfl
@[simp] theorem answer_programs (s : State) (c : Byte) (x : Status) (p : AnswerPayload) :
    (s.answer c x p).programs = s.programs := rfl
@[simp] theorem answer_seq (s : State) (c : Byte) (x : Status) (p : AnswerPayload) :
    (s.answer c x p).seq = s.seq := rfl
@[simp] theorem answer_drive (s : State) (c : Byte) (x : Status) (p : AnswerPayload) :
    (s.answer c x p).drive = s.drive := rfl
@[simp] theorem answer_time (s : State) (c : Byte) (x : Status) (p : AnswerPayload) :
    (s.answer c x p).time = s.time := rfl
@[simp] theorem answer_holds (s : State) (c : Byte) (x : Status) (p : AnswerPayload) :
    (s.answer c x p).holds = s.holds := rfl
@[simp] theorem answer_log (s : State) (c : Byte) (x : Status) (p : AnswerPayload) :
    (s.answer c x p).log = s.log := rfl
@[simp] theorem answer_flash (s : State) (c : Byte) (x : Status) (p : AnswerPayload) :
    (s.answer c x p).flash = s.flash := rfl
@[simp] theorem answer_link (s : State) (c : Byte) (x : Status) (p : AnswerPayload) :
    (s.answer c x p).link = s.link := rfl
@[simp] theorem answer_port (s : State) (c : Byte) (x : Status) (p : AnswerPayload) :
    (s.answer c x p).port = { s.port with state := .answering, answer := some ⟨c, x, p⟩ } := rfl
@[simp] theorem answer_draws (s : State) (c : Byte) (x : Status) (p : AnswerPayload) :
    (s.answer c x p).draws = s.draws := rfl
@[simp] theorem answer_pending (s : State) (c : Byte) (x : Status) (p : AnswerPayload) :
    (s.answer c x p).pending = s.pending := rfl

/-! ## setStopPin -/

@[simp] theorem setStopPin_pins (s : State) (b : Bool) :
    (s.setStopPin b).pins = { s.pins with stop := b } := rfl
@[simp] theorem setStopPin_roster (s : State) (b : Bool) : (s.setStopPin b).roster = s.roster := rfl
@[simp] theorem setStopPin_claims (s : State) (b : Bool) : (s.setStopPin b).claims = s.claims := rfl
@[simp] theorem setStopPin_account (s : State) (b : Bool) : (s.setStopPin b).account = s.account := rfl
@[simp] theorem setStopPin_jobs (s : State) (b : Bool) : (s.setStopPin b).jobs = s.jobs := rfl
@[simp] theorem setStopPin_programs (s : State) (b : Bool) : (s.setStopPin b).programs = s.programs := rfl
@[simp] theorem setStopPin_seq (s : State) (b : Bool) : (s.setStopPin b).seq = s.seq := rfl
@[simp] theorem setStopPin_drive (s : State) (b : Bool) : (s.setStopPin b).drive = s.drive := rfl
@[simp] theorem setStopPin_time (s : State) (b : Bool) : (s.setStopPin b).time = s.time := rfl
@[simp] theorem setStopPin_holds (s : State) (b : Bool) : (s.setStopPin b).holds = s.holds := rfl
@[simp] theorem setStopPin_log (s : State) (b : Bool) : (s.setStopPin b).log = s.log := rfl
@[simp] theorem setStopPin_flash (s : State) (b : Bool) : (s.setStopPin b).flash = s.flash := rfl
@[simp] theorem setStopPin_link (s : State) (b : Bool) : (s.setStopPin b).link = s.link := rfl
@[simp] theorem setStopPin_port (s : State) (b : Bool) : (s.setStopPin b).port = s.port := rfl
@[simp] theorem setStopPin_draws (s : State) (b : Bool) : (s.setStopPin b).draws = s.draws := rfl
@[simp] theorem setStopPin_pending (s : State) (b : Bool) : (s.setStopPin b).pending = s.pending := rfl

/-! ## driveBreak -/

@[simp] theorem driveBreak_pins (s : State) : (s.driveBreak).pins = s.pins := rfl
@[simp] theorem driveBreak_roster (s : State) : (s.driveBreak).roster = s.roster := rfl
@[simp] theorem driveBreak_claims (s : State) : (s.driveBreak).claims = s.claims := rfl
@[simp] theorem driveBreak_account (s : State) : (s.driveBreak).account = s.account := rfl
@[simp] theorem driveBreak_jobs (s : State) : (s.driveBreak).jobs = s.jobs := rfl
@[simp] theorem driveBreak_programs (s : State) : (s.driveBreak).programs = s.programs := rfl
@[simp] theorem driveBreak_seq (s : State) : (s.driveBreak).seq = s.seq := rfl
@[simp] theorem driveBreak_drive (s : State) : (s.driveBreak).drive = s.drive := rfl
@[simp] theorem driveBreak_time (s : State) : (s.driveBreak).time = s.time := rfl
@[simp] theorem driveBreak_holds (s : State) : (s.driveBreak).holds = s.holds := rfl
@[simp] theorem driveBreak_log (s : State) : (s.driveBreak).log = s.log := rfl
@[simp] theorem driveBreak_flash (s : State) : (s.driveBreak).flash = s.flash := rfl
@[simp] theorem driveBreak_link (s : State) :
    (s.driveBreak).link =
      { s.link with
        sending := .idle
        lineIdle := false
        breakDrive := some 1360
        queue := if s.roster.state = .isolated then [] else s.link.queue } := rfl
@[simp] theorem driveBreak_port (s : State) : (s.driveBreak).port = s.port := rfl
@[simp] theorem driveBreak_draws (s : State) : (s.driveBreak).draws = s.draws := rfl
@[simp] theorem driveBreak_pending (s : State) : (s.driveBreak).pending = s.pending := rfl

/-! ## takeTicket -/

@[simp] theorem takeTicket_pins (s : State) : (s.takeTicket).pins = s.pins := rfl
@[simp] theorem takeTicket_roster (s : State) :
    (s.takeTicket).roster = { s.roster with ticketCounter := heldInc s.roster.ticketCounter } := rfl
@[simp] theorem takeTicket_claims (s : State) :
    (s.takeTicket).claims = { s.claims with ownCounter := s.claims.ownCounter + 1 } := rfl
@[simp] theorem takeTicket_account (s : State) : (s.takeTicket).account = s.account := rfl
@[simp] theorem takeTicket_jobs (s : State) : (s.takeTicket).jobs = s.jobs := rfl
@[simp] theorem takeTicket_programs (s : State) : (s.takeTicket).programs = s.programs := rfl
@[simp] theorem takeTicket_seq (s : State) : (s.takeTicket).seq = s.seq := rfl
@[simp] theorem takeTicket_drive (s : State) : (s.takeTicket).drive = s.drive := rfl
@[simp] theorem takeTicket_time (s : State) : (s.takeTicket).time = s.time := rfl
@[simp] theorem takeTicket_holds (s : State) : (s.takeTicket).holds = s.holds := rfl
@[simp] theorem takeTicket_log (s : State) : (s.takeTicket).log = s.log := rfl
@[simp] theorem takeTicket_flash (s : State) : (s.takeTicket).flash = s.flash := rfl
@[simp] theorem takeTicket_link (s : State) : (s.takeTicket).link = s.link := rfl
@[simp] theorem takeTicket_port (s : State) : (s.takeTicket).port = s.port := rfl
@[simp] theorem takeTicket_draws (s : State) : (s.takeTicket).draws = s.draws := rfl
@[simp] theorem takeTicket_pending (s : State) : (s.takeTicket).pending = s.pending := rfl

/-! ## armCaptures -/

@[simp] theorem armCaptures_pins (s : State) : (s.armCaptures).pins = s.pins := rfl
@[simp] theorem armCaptures_roster (s : State) : (s.armCaptures).roster = s.roster := rfl
@[simp] theorem armCaptures_claims (s : State) : (s.armCaptures).claims = s.claims := rfl
@[simp] theorem armCaptures_account (s : State) : (s.armCaptures).account = s.account := rfl
@[simp] theorem armCaptures_jobs (s : State) : (s.armCaptures).jobs = s.jobs := rfl
@[simp] theorem armCaptures_programs (s : State) : (s.armCaptures).programs = s.programs := rfl
@[simp] theorem armCaptures_seq (s : State) : (s.armCaptures).seq = s.seq := rfl
@[simp] theorem armCaptures_drive (s : State) : (s.armCaptures).drive = s.drive := rfl
@[simp] theorem armCaptures_time (s : State) :
    (s.armCaptures).time = { s.time with lead := s.time.lead.arm s.now, trail := s.time.trail.arm s.now } := rfl
@[simp] theorem armCaptures_holds (s : State) : (s.armCaptures).holds = s.holds := rfl
@[simp] theorem armCaptures_log (s : State) : (s.armCaptures).log = s.log := rfl
@[simp] theorem armCaptures_flash (s : State) : (s.armCaptures).flash = s.flash := rfl
@[simp] theorem armCaptures_link (s : State) : (s.armCaptures).link = s.link := rfl
@[simp] theorem armCaptures_port (s : State) : (s.armCaptures).port = s.port := rfl
@[simp] theorem armCaptures_draws (s : State) : (s.armCaptures).draws = s.draws := rfl
@[simp] theorem armCaptures_pending (s : State) : (s.armCaptures).pending = s.pending := rfl

/-! ## disarmCaptures -/

@[simp] theorem disarmCaptures_pins (s : State) : (s.disarmCaptures).pins = s.pins := rfl
@[simp] theorem disarmCaptures_roster (s : State) : (s.disarmCaptures).roster = s.roster := rfl
@[simp] theorem disarmCaptures_claims (s : State) : (s.disarmCaptures).claims = s.claims := rfl
@[simp] theorem disarmCaptures_account (s : State) : (s.disarmCaptures).account = s.account := rfl
@[simp] theorem disarmCaptures_jobs (s : State) : (s.disarmCaptures).jobs = s.jobs := rfl
@[simp] theorem disarmCaptures_programs (s : State) : (s.disarmCaptures).programs = s.programs := rfl
@[simp] theorem disarmCaptures_seq (s : State) : (s.disarmCaptures).seq = s.seq := rfl
@[simp] theorem disarmCaptures_drive (s : State) : (s.disarmCaptures).drive = s.drive := rfl
@[simp] theorem disarmCaptures_time (s : State) :
    (s.disarmCaptures).time =
      { s.time with lead := { s.time.lead with armed := false }, trail := { s.time.trail with armed := false } } := rfl
@[simp] theorem disarmCaptures_holds (s : State) : (s.disarmCaptures).holds = s.holds := rfl
@[simp] theorem disarmCaptures_log (s : State) : (s.disarmCaptures).log = s.log := rfl
@[simp] theorem disarmCaptures_flash (s : State) : (s.disarmCaptures).flash = s.flash := rfl
@[simp] theorem disarmCaptures_link (s : State) : (s.disarmCaptures).link = s.link := rfl
@[simp] theorem disarmCaptures_port (s : State) : (s.disarmCaptures).port = s.port := rfl
@[simp] theorem disarmCaptures_draws (s : State) : (s.disarmCaptures).draws = s.draws := rfl
@[simp] theorem disarmCaptures_pending (s : State) : (s.disarmCaptures).pending = s.pending := rfl

end Sys2Proof.Machine
end

