-- ==== Sys2Proof/Laws/Pages.lean ====
section
/-! SUPPORT. The pages of the array: what each operation leaves a page reading as, and that each keeps the canonical
form. -/

set_option Elab.async false

namespace Sys2Proof.Machine

theorem readPage_nil (p : Nat) : readPage [] p = none := rfl

/-- The page put reads as what was put. -/
@[simp] theorem readPage_putPage_same (p : Nat) (c : PageContent) :
    ∀ l : List (Nat × PageContent), readPage (putPage p c l) p = some c
  | [] => by simp [putPage, readPage]
  | (q, d) :: rest => by
      unfold putPage
      split
      · simp [readPage]
      · split
        · simp [readPage]
        · rename_i h
          simp only [readPage]
          rw [if_neg (fun e => h e.symm)]
          exact readPage_putPage_same p c rest

/-- Every other page reads as before. -/
theorem readPage_putPage_other {p r : Nat} (h : r ≠ p) (c : PageContent) :
    ∀ l : List (Nat × PageContent), readPage (putPage p c l) r = readPage l r
  | [] => by simp [putPage, readPage, Ne.symm h]
  | (q, d) :: rest => by
      unfold putPage
      split
      · simp [readPage, Ne.symm h]
      · split
        · rename_i e; subst e; simp [readPage, Ne.symm h]
        · simp only [readPage]
          rw [readPage_putPage_other h c rest]

/-- A page of an emptied section reads EMPTY, every other page as before. -/
theorem readPage_emptySection (x p : Nat) : ∀ l : List (Nat × PageContent),
    readPage (emptySection x l) p = if sectionOf p = x then none else readPage l p
  | [] => by simp [emptySection, readPage]
  | (q, d) :: rest => by
      have ih := readPage_emptySection x p rest
      unfold emptySection at ih ⊢
      rw [List.filter_cons]
      split
      · rename_i h
        simp only [readPage]
        split
        · rename_i e; subst e
          have : sectionOf q ≠ x := by simpa using h
          simp [this]
        · exact ih
      · rename_i h
        have hq : sectionOf q = x := by simpa using h
        rw [ih]
        simp only [readPage]
        split
        · rfl
        · rename_i k
          rw [if_neg]
          rintro rfl
          exact k hq

theorem readPage_putInvalid (x p : Nat) : ∀ (offs : List Nat) (l : List (Nat × PageContent)),
    readPage (putInvalid x offs l) p = readPage l p ∨
      (∃ o ∈ offs, p = firstPage x + o) ∧ readPage (putInvalid x offs l) p = some .invalid
  | [], l => .inl rfl
  | o :: offs, l => by
      have ih := readPage_putInvalid x p offs (putPage (firstPage x + o) .invalid l)
      rcases ih with h | ⟨⟨o', ho', e⟩, h⟩
      · by_cases e : p = firstPage x + o
        · refine .inr ⟨⟨o, by simp, e⟩, ?_⟩
          rw [← readPage_putPage_same p .invalid l]
          rw [e] at h ⊢
          exact h
        · left
          exact h.trans (readPage_putPage_other e .invalid l)
      · exact .inr ⟨⟨o', List.mem_cons_of_mem _ ho', e⟩, h⟩

/-! ## The canonical form -/

theorem pagesWf_iff (l : List (Nat × PageContent)) :
    pagesWf l = true ↔ l.Pairwise (fun a b => a.1 < b.1) ∧ ∀ q ∈ l, q.1 < 4096 := by
  simp only [pagesWf, pagesPerSection, sectionCount, Bool.and_eq_true, decide_eq_true_eq, List.all_eq_true]
  exact ⟨fun h => ⟨h.1, fun q hq => of_decide_eq_true (h.2 q hq)⟩,
    fun h => ⟨h.1, fun q hq => decide_eq_true (h.2 q hq)⟩⟩

theorem pagesWf_nil : pagesWf [] = true := rfl

theorem mem_putPage {p : Nat} {c : PageContent} {a : Nat × PageContent} :
    ∀ {l : List (Nat × PageContent)}, a ∈ putPage p c l → a = (p, c) ∨ a ∈ l
  | [], h => by simpa [putPage] using h
  | (q, d) :: rest, h => by
      unfold putPage at h
      split at h
      · rcases List.mem_cons.mp h with h | h
        · exact .inl h
        · exact .inr h
      · split at h
        · rcases List.mem_cons.mp h with h | h
          · exact .inl h
          · exact .inr (List.mem_cons_of_mem _ h)
        · rcases List.mem_cons.mp h with h | h
          · exact .inr (by rw [h]; exact List.mem_cons_self ..)
          · rcases mem_putPage h with h | h
            · exact .inl h
            · exact .inr (List.mem_cons_of_mem _ h)

theorem putPage_rising (p : Nat) (c : PageContent) : ∀ l : List (Nat × PageContent),
    l.Pairwise (fun a b => a.1 < b.1) → (putPage p c l).Pairwise (fun a b => a.1 < b.1)
  | [], _ => by simp [putPage]
  | (q, d) :: rest, h => by
      have h' := List.pairwise_cons.mp h
      unfold putPage
      split
      · rename_i k
        refine List.pairwise_cons.mpr ⟨fun a ha => ?_, h⟩
        rcases List.mem_cons.mp ha with rfl | ha
        · exact k
        · exact Nat.lt_trans k (h'.1 a ha)
      · split
        · rename_i e
          refine List.pairwise_cons.mpr ⟨fun a ha => ?_, h'.2⟩
          simp only [e]; exact h'.1 a ha
        · rename_i k e
          refine List.pairwise_cons.mpr ⟨fun a ha => ?_, putPage_rising p c rest h'.2⟩
          rcases mem_putPage ha with rfl | ha
          · simp only; omega
          · exact h'.1 a ha

/-- Putting a page of the array keeps the canonical form. -/
theorem pagesWf_putPage {p : Nat} (hp : p < 4096) (c : PageContent) {l : List (Nat × PageContent)}
    (h : pagesWf l = true) : pagesWf (putPage p c l) = true := by
  rw [pagesWf_iff] at h ⊢
  refine ⟨putPage_rising p c l h.1, fun q hq => ?_⟩
  rcases mem_putPage hq with rfl | hq
  · exact hp
  · exact h.2 q hq

/-- Emptying a section keeps the canonical form. -/
theorem pagesWf_emptySection (x : Nat) {l : List (Nat × PageContent)} (h : pagesWf l = true) :
    pagesWf (emptySection x l) = true := by
  rw [pagesWf_iff] at h ⊢
  exact ⟨h.1.filter _, fun q hq => h.2 q (List.mem_filter.mp hq).1⟩

/-- Making pages of a section INVALID keeps the canonical form. -/
theorem pagesWf_putInvalid {x : Nat} (hx : x < 64) : ∀ (offs : List Nat) (_ : ∀ o ∈ offs, o < 64)
    {l : List (Nat × PageContent)}, pagesWf l = true → pagesWf (putInvalid x offs l) = true
  | [], _, _, h => h
  | o :: offs, ho, l, h => by
      have : firstPage x + o < 4096 := by
        have := ho o (by simp)
        unfold firstPage pagesPerSection; omega
      exact pagesWf_putInvalid hx offs (fun a ha => ho a (List.mem_cons_of_mem _ ha)) (pagesWf_putPage this _ h)

/-- The reset array is in its canonical form. -/
theorem reset_pagesWf : pagesWf State.reset.flash.pages = true := rfl

/-! ## The next EMPTY page -/

/-- The page found reads EMPTY and lies among the pages looked at; none before it reads EMPTY. -/
theorem nextEmpty_some {l : List (Nat × PageContent)} {q : Nat} : ∀ (n p : Nat), nextEmpty l n p = some q →
    p ≤ q ∧ q < p + n ∧ readPage l q = none
  | 0, _, h => by simp [nextEmpty] at h
  | n + 1, p, h => by
      unfold nextEmpty at h
      split at h
      · rename_i e
        cases h
        exact ⟨Nat.le_refl _, by omega, by simpa using e⟩
      · have := nextEmpty_some n (p + 1) h
        exact ⟨by omega, by omega, this.2.2⟩

/-- The next EMPTY page after a page lies in the same section. -/
theorem nextEmptyAfter_some {l : List (Nat × PageContent)} {p q : Nat} (h : nextEmptyAfter l p = some q) :
    p < q ∧ sectionOf q = sectionOf p ∧ readPage l q = none := by
  have := nextEmpty_some _ _ h
  refine ⟨by omega, ?_, this.2.2⟩
  unfold sectionOf pagesPerSection at *
  omega

theorem sectionAhead_lt (x : Nat) : sectionAhead x < 64 := Nat.mod_lt _ (by decide)

theorem firstPage_lt {x : Nat} (h : x < 64) : firstPage x < 4096 := by
  unfold firstPage pagesPerSection; omega

theorem sectionOf_lt {p : Nat} (h : p < 4096) : sectionOf p < 64 := by
  unfold sectionOf pagesPerSection; omega

end Sys2Proof.Machine
end

