-- ==== Sys2Proof/Laws/Keeps.lean ====
section
/-! SUPPORT. What the operations below an event keep: a sound state stays sound, and the parts of the station that only
whole commands change stay as they are. One lemma per operation, to be cited in place of unfolding it. -/

set_option Elab.async false

namespace Sys2Proof.Machine

/-- The parts of the state that no operation below a command changes: the input lines, the programs, the array's areas,
the model's own fields, the Roster but for its ticket counter, and the port but for its flags. -/
def State.fixed (s : State) : Pins × ProgramStore × FlashArray × Nat × List Instr × Roster × ControllerPort :=
  (s.pins, s.programs, { s.flash with pages := [] }, s.draws, s.pending, { s.roster with ticketCounter := 0 },
    { s.port with flags := .none })

/-- `t` keeps what `s` has: soundness, the fixed parts, and the array's form. -/
structure Keeps (s t : State) : Prop where
  sound : s.Sound → t.Sound
  fixed : t.fixed = s.fixed
  formed : s.Formed → t.Formed

theorem Keeps.refl (s : State) : Keeps s s := ⟨id, rfl, id⟩

theorem Keeps.trans {s t u : State} (h : Keeps s t) (k : Keeps t u) : Keeps s u :=
  ⟨fun x => k.sound (h.sound x), k.fixed.trans h.fixed, fun x => k.formed (h.formed x)⟩

/-- What soundness reads. -/
def State.soundKey (s : State) :
    Nat × List ClaimEntry × Bool × Nat × List HoldEntry × List Loop × List Job × List Entry × List Entry ×
      StationState × Rank × Option HeldFrame × Option HeldFrame :=
  (s.account.committed, s.claims.table, s.port.flags.stalePresent, s.link.queue.length, s.holds.stack, s.seq.loops,
    s.jobs.list, s.account.retained, s.account.holding, s.roster.state, s.own, s.link.rxA, s.link.rxB)

/-- What soundness reads decides it. -/
theorem State.Sound.of_key {s t : State} (k : t.soundKey = s.soundKey) (h : s.Sound) : t.Sound := by
  simp only [State.soundKey, Prod.mk.injEq] at k
  obtain ⟨k1, k2, k3, k4, k5, k6, k7, k8, k9, k10, k11, k12, k13⟩ := k
  exact ⟨by rw [k1, k2]; exact h.tied, by rw [k2, k3]; exact h.stale, by rw [k4]; exact h.queue,
    by rw [k5]; exact h.rising, by rw [k5]; exact h.contexts, by rw [k6]; exact h.loops, by rw [k7]; exact h.jobs,
    by rw [k7]; exact h.queued, by rw [k8]; exact h.retained, by rw [k9]; exact h.holding,
    by rw [k2, k10, k11, k12, k13]; exact h.bounded⟩

theorem Keeps.of_key {s t : State} (k : t.soundKey = s.soundKey) (f : t.fixed = s.fixed)
    (g : s.Formed → t.Formed := by exact fun x => ⟨x.pages, x.writePos, x.due, x.blocked, x.erasing⟩) :
    Keeps s t := ⟨State.Sound.of_key k, f, g⟩

/-- What keeps the Roster keeps the station state. -/
theorem Keeps.station {s t : State} (h : Keeps s t) : t.roster.state = s.roster.state := by
  have f := h.fixed
  simp only [State.fixed, Prod.mk.injEq] at f
  have := congrArg Roster.state f.2.2.2.2.2.1
  exact this

/-- What keeps the Roster keeps the station's rank. -/
theorem Keeps.own {s t : State} (h : Keeps s t) : t.own = s.own := by
  have f := h.fixed
  simp only [State.fixed, Prod.mk.injEq] at f
  have := congrArg Roster.config f.2.2.2.2.2.1
  unfold State.own State.conf
  rw [show t.roster.config = s.roster.config from this]

theorem Keeps.ite {c : Prop} [Decidable c] {s a b : State} (ha : Keeps s a) (hb : Keeps s b) :
    Keeps s (if c then a else b) := by split <;> assumption

theorem Keeps.foldl {α : Type} {f : State → α → State} (h : ∀ s a, Keeps s (f s a)) :
    ∀ (l : List α) (s : State), Keeps s (l.foldl f s)
  | [], s => Keeps.refl s
  | a :: l, s => (h s a).trans (Keeps.foldl h l (f s a))

/-! ## Primitive changes -/

theorem raise_keeps (s : State) {f : Flag} (hf : f ≠ .stalePresent) : Keeps s (s.raise f) := by
  refine Keeps.of_key ?_ rfl
  cases f <;> first | rfl | exact absurd rfl hf

theorem countLink_keeps (c : LinkCounter) (s : State) : Keeps s (s.countLink c) := by
  cases c <;> exact Keeps.of_key rfl rfl

theorem Link.begin_queue (l : Link) : l.begin.queue = l.queue := by
  unfold Link.begin; split <;> rfl

theorem Link.begin_rx (l : Link) : l.begin.rxA = l.rxA ∧ l.begin.rxB = l.rxB := by
  unfold Link.begin; split <;> exact ⟨rfl, rfl⟩

theorem enqueue_keeps (f : Frame) (s : State) (h : s.link.queue.length < 8) : Keeps s (s.enqueue f) :=
  ⟨fun x => ⟨x.tied, x.stale, by simp [State.enqueue]; omega, x.rising, x.contexts, x.loops, x.jobs, x.queued, x.retained,
    x.holding, x.bounded⟩, rfl, fun x => ⟨x.pages, x.writePos, x.due, x.blocked, x.erasing⟩⟩

theorem begin_keeps (s : State) : Keeps s { s with link := s.link.begin } := by
  unfold Link.begin
  split <;> exact Keeps.of_key rfl rfl

theorem forgetMoves_keeps (s : State) : Keeps s s.forgetMoves := Keeps.of_key rfl rfl

theorem post_keeps (d : Dest) (p : Payload) (s : State) : Keeps s (s.post d p) := by
  unfold State.post
  split
  · split
    · rename_i h
      exact (enqueue_keeps _ s h).trans (Keeps.ite (begin_keeps _) (Keeps.refl _))
    · exact countLink_keeps _ _
  · exact Keeps.refl s

theorem setClock_keeps (c : Time) (s : State) : Keeps s (s.setClock c) := Keeps.of_key rfl rfl

theorem reachExpiry_keeps (t : Timer) (s : State) : Keeps s (s.reachExpiry t) :=
  Keeps.ite (Keeps.refl s) (setClock_keeps _ s)

theorem setChannel_keeps (ch : Channel) (c : ChannelState) (s : State) : Keeps s (s.setChannel ch c) :=
  Keeps.of_key rfl rfl

theorem postCommand_keeps (ch : Channel) (c : DriveCommand) (s : State) : Keeps s (s.postCommand ch c) :=
  setChannel_keeps _ _ s

theorem postStops_keeps (s : State) : Keeps s s.postStops :=
  ((postCommand_keeps _ _ s).trans (postCommand_keeps _ _ _)).trans (postCommand_keeps _ _ _)

theorem serveDrives_keeps (s : State) : Keeps s s.serveDrives := by
  unfold State.serveDrives
  split
  · exact Keeps.refl s
  · split
    · exact Keeps.of_key rfl rfl
    · exact Keeps.refl s

/-- Fewer claims keep within their limits. -/
theorem ClaimsBounded.mono {st : StationState} {own : Rank} {l m : List (Rank × BitVec 16)} {a b : Option HeldFrame}
    (h : ClaimsBounded st own m a b) (k : l.Sublist m) : ClaimsBounded st own l a b where
  limited := fun r => Nat.le_trans (k.filter _).length_le (h.limited r)
  unique := h.unique.sublist (k.filter _)
  owned := fun x i hi => h.owned x i (k.subset hi)
  unclaimed := fun x => List.sublist_nil.mp (h.unclaimed x ▸ k)
  listsA := h.listsA
  listsB := h.listsB

/-- The table changed, its identities within their limits. -/
theorem setTable_bounded_keeps (t : List ClaimEntry) (s : State)
    (h : s.Sound → ClaimsBounded s.roster.state s.own (identities t) s.link.rxA s.link.rxB) : Keeps s (s.setTable t) :=
  ⟨fun x => ⟨rfl, rfl, x.queue, x.rising, x.contexts, x.loops, x.jobs, x.queued, x.retained, x.holding, h x⟩, rfl,
    fun x => ⟨x.pages, x.writePos, x.due, x.blocked, x.erasing⟩⟩

/-- The table changed after other changes, its identities within their limits. -/
theorem setTable_bounded_from {s u : State} (hu : Keeps s u) (t : List ClaimEntry)
    (h : s.Sound → ClaimsBounded u.roster.state u.own (identities t) u.link.rxA u.link.rxB) :
    Keeps s (u.setTable t) := by
  refine ⟨fun x => ?_, hu.fixed, fun x => ?_⟩
  · exact (setTable_bounded_keeps t u fun _ => h x).sound (hu.sound x)
  · have y := hu.formed x
    exact ⟨y.pages, y.writePos, y.due, y.blocked, y.erasing⟩

/-- The table changed, no identity added. -/
theorem setTable_keeps (t : List ClaimEntry) (s : State)
    (h : (identities t).Sublist (identities s.claims.table)) : Keeps s (s.setTable t) :=
  setTable_bounded_keeps t s fun x => x.bounded.mono h

/-- A part of a table has some of its identities. -/
theorem identities_filter (p : ClaimEntry → Bool) (t : List ClaimEntry) :
    (identities (t.filter p)).Sublist (identities t) := List.Sublist.map _ List.filter_sublist

/-- Entries changed in other fields keep their identities. -/
theorem identities_map {f : ClaimEntry → ClaimEntry} (h : ∀ e, (f e).origin = e.origin ∧ (f e).number = e.number)
    (t : List ClaimEntry) : identities (t.map f) = identities t := by
  unfold identities
  rw [List.map_map]
  exact List.map_congr_left fun e _ => by simp [(h e).1, (h e).2]

/-- The table filtered. -/
theorem filterTable_keeps (p : ClaimEntry → Bool) (s : State) : Keeps s (s.setTable (s.claims.table.filter p)) :=
  setTable_keeps _ s (identities_filter p _)

/-- The entries changed in other fields than their identities. -/
theorem mapTable_keeps {f : ClaimEntry → ClaimEntry} (h : ∀ e, (f e).origin = e.origin ∧ (f e).number = e.number)
    (s : State) : Keeps s (s.setTable (s.claims.table.map f)) :=
  setTable_keeps _ s (by simp only [identities_map h, List.Sublist.refl])

theorem raiseTicket_keeps (v : Nat) (s : State) : Keeps s (s.raiseTicket v) := Keeps.of_key rfl rfl

theorem setApplied_keeps (r : Rank) (q : Nat) (s : State) : Keeps s (s.setApplied r q) := Keeps.of_key rfl rfl

theorem setGap_keeps (r : Rank) (g : Option OpenGap) (s : State) : Keeps s (s.setGap r g) := Keeps.of_key rfl rfl

theorem tellAccountChange_keeps (s : State) : Keeps s s.tellAccountChange := Keeps.of_key rfl rfl

theorem setAccountState_keeps (a : AccountState) (s : State) : Keeps s (s.setAccountState a) := Keeps.of_key rfl rfl

/-- The account changed, its lists no longer than allowed. -/
theorem setAccount_keeps (a : Account) (s : State) (hc : a.committed = s.account.committed)
    (hr : s.account.retained.length ≤ 16 → a.retained.length ≤ 16)
    (hh : s.account.holding.length ≤ 8 → a.holding.length ≤ 8) : Keeps s (s.setAccount a) :=
  ⟨fun x => ⟨hc.trans x.tied, x.stale, x.queue, x.rising, x.contexts, x.loops, x.jobs, x.queued,
    hr x.retained, hh x.holding, x.bounded⟩, rfl, fun x => ⟨x.pages, x.writePos, x.due, x.blocked, x.erasing⟩⟩

theorem updateHead_keeps (f : Job → Job) (s : State) : Keeps s (s.updateHead f) := by
  unfold State.updateHead
  split
  · rename_i j rest h
    refine ⟨fun x => ⟨x.tied, x.stale, x.queue, x.rising, x.contexts, x.loops, ?_, ?_, x.retained, x.holding, x.bounded⟩, rfl,
      fun x => ⟨x.pages, x.writePos, x.due, x.blocked, x.erasing⟩⟩
    · have := x.jobs; rw [h] at this; simpa using this
    · have := x.queued; rw [h] at this; simpa using this
  · exact Keeps.refl s

theorem setClaimWait_keeps (t : Option Timer) (s : State) : Keeps s (s.setClaimWait t) := Keeps.of_key rfl rfl

/-- The Log Store changed, its positions still pages and sections of the array. -/
theorem setLog_keeps (l : LogStore) (s : State)
    (g : s.Formed → (s.setLog l).Formed := by exact fun x => ⟨x.pages, x.writePos, x.due, x.blocked, x.erasing⟩) :
    Keeps s (s.setLog l) := Keeps.of_key rfl rfl g

/-- A buffer's content is no part of the array's form. -/
theorem setBuffer_formed (i : BufferId) (b : Buffer) {s : State} (x : s.Formed) :
    (s.setLog (s.log.setBuffer i b)).Formed := by
  cases i <;> exact ⟨x.pages, x.writePos, x.due, x.blocked, x.erasing⟩

theorem setBuffer_keeps (i : BufferId) (b : Buffer) (s : State) : Keeps s (s.setBuffer i b) :=
  Keeps.of_key rfl rfl (setBuffer_formed i b)

theorem placeReady_keeps (i : BufferId) (b : RecordBody) (s : State) : Keeps s (s.placeReady i b) :=
  Keeps.of_key rfl rfl fun x => by cases i <;> exact ⟨x.pages, x.writePos, x.due, x.blocked, x.erasing⟩

theorem updateRecord_keeps (f : DipRecord → DipRecord) (s : State) : Keeps s (s.updateRecord f) := by
  unfold State.updateRecord
  split
  · exact setBuffer_keeps _ _ s
  · exact Keeps.refl s

theorem updateFlags_keeps (f : DipFlags → DipFlags) (s : State) : Keeps s (s.updateFlags f) := updateRecord_keeps _ s

/-- The pages changed, their form kept. -/
theorem setPages_keeps (p : List (Nat × PageContent)) (s : State) (h : s.Formed → pagesWf p = true) :
    Keeps s (s.setPages p) :=
  Keeps.of_key rfl rfl fun x => ⟨h x, x.writePos, x.due, x.blocked, x.erasing⟩

/-- The Sequencer changed, its repeat stack no deeper than allowed. -/
theorem setSeq_keeps (q : Sequencer) (s : State) (h : s.seq.loops.length ≤ 4 → q.loops.length ≤ 4) :
    Keeps s (s.setSeq q) :=
  ⟨fun x => ⟨x.tied, x.stale, x.queue, x.rising, x.contexts, h x.loops, x.jobs, x.queued, x.retained, x.holding, x.bounded⟩,
    rfl, fun x => ⟨x.pages, x.writePos, x.due, x.blocked, x.erasing⟩⟩

/-- The Hold Controller changed with its stack kept in order. -/
theorem setHolds_keeps (h : HoldController) (s : State)
    (k : s.Sound → h.stack.Pairwise (fun a b => a.cls.outranks b.cls = true) ∧
      ∀ e ∈ h.stack, e.context.loops.length ≤ 4) : Keeps s (s.setHolds h) :=
  ⟨fun x => ⟨x.tied, x.stale, x.queue, (k x).1, (k x).2, x.loops, x.jobs, x.queued, x.retained, x.holding, x.bounded⟩, rfl,
    fun x => ⟨x.pages, x.writePos, x.due, x.blocked, x.erasing⟩⟩

theorem setHolds_sameStack_keeps (h : HoldController) (s : State) (k : h.stack = s.holds.stack) :
    Keeps s (s.setHolds h) :=
  setHolds_keeps h s fun x => by rw [k]; exact ⟨x.rising, x.contexts⟩

theorem setPhase_keeps (p : Phase) (s : State) : Keeps s (s.setPhase p) := setSeq_keeps _ s (by exact id)

/-! ## Lifts and holds -/

theorem suspendTimer_keeps (s : State) : Keeps s s.suspendTimer := by
  unfold State.suspendTimer
  split
  · exact setSeq_keeps _ s (by exact id)
  · exact Keeps.refl s

theorem resumeTimer_keeps (s : State) : Keeps s s.resumeTimer := by
  unfold State.resumeTimer
  split
  · exact setSeq_keeps _ s (by exact id)
  · exact Keeps.refl s

theorem bankDrain_keeps (s : State) : Keeps s s.bankDrain := setSeq_keeps _ s (by exact id)

theorem clearMarks_keeps (s : State) : Keeps s s.clearMarks :=
  (setSeq_keeps _ s (by exact id)).trans (forgetMoves_keeps _)

theorem abandonForLift_keeps (s : State) : Keeps s s.abandonForLift := by
  unfold State.abandonForLift
  refine Keeps.trans ?_ ((bankDrain_keeps _).trans (setSeq_keeps _ _ (by exact id)))
  split
  · exact setClaimWait_keeps _ s
  · exact Keeps.refl s

theorem postLiftMoves_keeps (s : State) : Keeps s s.postLiftMoves := by
  unfold State.postLiftMoves State.postLift
  dsimp only
  split <;> split
  · exact Keeps.refl s
  · exact postCommand_keeps _ _ s
  · exact postCommand_keeps _ _ s
  · exact (postCommand_keeps _ _ s).trans (postCommand_keeps _ _ _)

theorem stopTravel_keeps (s : State) : Keeps s s.stopTravel :=
  Keeps.ite (postCommand_keeps _ _ s) (Keeps.refl s)

theorem beginLift_keeps (w : LiftFor) (k : Bool) (s : State) : Keeps s (s.beginLift w k) := by
  unfold State.beginLift
  have h := (abandonForLift_keeps s).trans (stopTravel_keeps _)
  dsimp only
  split
  · exact (h.trans (setSeq_keeps _ _ (by exact id))).trans (postLiftMoves_keeps _)
  · exact ((h.trans (clearMarks_keeps _)).trans (setSeq_keeps _ _ (by exact id))).trans (postLiftMoves_keeps _)

theorem freeze_keeps (s : State) : Keeps s s.freeze := by
  unfold State.freeze
  refine ((postStops_keeps s).trans (suspendTimer_keeps _)).trans ?_
  exact Keeps.ite (setSeq_keeps _ _ (by exact id)) (Keeps.refl _)

theorem setAbort_keeps (r : AbortReason) (s : State) : Keeps s (s.setAbort r) := updateHead_keeps _ s

theorem noteAbortedBath_keeps (c : HoldClass) (s : State) : Keeps s (s.noteAbortedBath c) :=
  Keeps.ite (updateFlags_keeps _ s) (Keeps.refl s)

theorem dropLiftPending_keeps (s : State) : Keeps s s.dropLiftPending :=
  Keeps.ite ((setHolds_sameStack_keeps _ s (by rfl)).trans (raise_keeps _ (f := .holdChange) (by decide))) (Keeps.refl s)

theorem voidContexts_keeps (s : State) : Keeps s s.voidContexts :=
  setHolds_keeps _ s fun x => by
    refine ⟨?_, ?_⟩
    · simp only [List.pairwise_map]; exact x.rising
    · intro e he
      simp only [List.mem_map] at he
      obtain ⟨a, ha, rfl⟩ := he
      exact x.contexts a ha

theorem beginHoldLift_keeps (s : State) : Keeps s s.beginHoldLift := beginLift_keeps _ _ s

theorem liftAction_keeps (c : HoldClass) (s : State) : Keeps s (s.liftAction c) :=
  ((((setAbort_keeps _ s).trans (noteAbortedBath_keeps _ _)).trans (dropLiftPending_keeps _)).trans
    (voidContexts_keeps _)).trans (beginHoldLift_keeps _)

theorem recordHold_keeps (c : HoldClass) (s : State) : Keeps s (s.recordHold c) :=
  Keeps.ite ((updateRecord_keeps _ s).trans (setHolds_sameStack_keeps _ _ (by rfl))) (Keeps.refl s)

theorem context_loops (s : State) (h : s.seq.loops.length ≤ 4) : s.context.loops.length ≤ 4 := by
  unfold State.context; split <;> simp [h]

/-- The top of a hold stack, if there is one, is outranked by the class. -/
def tops (c : HoldClass) : List HoldEntry → Bool
  | [] => true
  | e :: _ => c.outranks e.cls

theorem outranks_trans {a b c : HoldClass} (h : a.outranks b = true) (k : b.outranks c = true) :
    a.outranks c = true := by
  simp only [HoldClass.outranks, decide_eq_true_eq] at *; omega

theorem pushHold_keeps (p : PendingHold) (s : State) (h : tops p.cls s.holds.stack = true) :
    Keeps s (s.pushHold p) := by
  refine (setHolds_keeps _ s fun x => ?_).trans (raise_keeps _ (by decide))
  refine ⟨?_, ?_⟩
  · rw [List.pairwise_cons]
    refine ⟨fun e he => ?_, x.rising⟩
    have hr := x.rising
    revert h he hr
    cases s.holds.stack with
    | nil => intro _ he; simp at he
    | cons a rest =>
        intro h he hr
        rw [List.pairwise_cons] at hr
        rcases List.mem_cons.mp he with rfl | he
        · exact h
        · exact outranks_trans h (hr.1 e he)
  · intro e he
    rcases List.mem_cons.mp he with rfl | he
    · exact context_loops s x.loops
    · exact x.contexts e he

theorem enterHold_keeps (p : PendingHold) (s : State) (h : tops p.cls s.holds.stack = true) :
    Keeps s (s.enterHold p) := by
  unfold State.enterHold
  have k := (pushHold_keeps p s h).trans (recordHold_keeps p.cls _)
  dsimp only
  split
  · exact k.trans (freeze_keeps _)
  · exact k.trans (liftAction_keeps _ _)

theorem enterPending_keeps (s : State) : Keeps s s.enterPending := by
  unfold State.enterPending
  split
  · exact Keeps.refl s
  · split
    · rename_i h; exact enterHold_keeps _ s (by rw [h]; rfl)
    · rename_i h; split
      · rename_i k; exact enterHold_keeps _ s (by rw [h]; exact k)
      · exact Keeps.refl s

/-- The hold stack without its top. -/
theorem popHold_keeps (s : State) {e : HoldEntry} {rest : List HoldEntry} (hs : s.holds.stack = e :: rest)
    (h : HoldController) (k : h.stack = rest) : Keeps s ((s.setHolds h).raise .holdChange) := by
  refine (setHolds_keeps h s fun x => ?_).trans (raise_keeps _ (by decide))
  have hr := x.rising
  have hc := x.contexts
  rw [hs] at hr hc
  rw [k]
  exact ⟨(List.pairwise_cons.mp hr).2, fun a ha => hc a (List.mem_cons_of_mem _ ha)⟩

theorem discardPause_keeps (s : State) : Keeps s s.discardPause := by
  unfold State.discardPause
  split
  · rename_i h; split
    · exact popHold_keeps s h _ rfl
    · exact Keeps.refl s
  · exact Keeps.refl s

theorem continueCancel_keeps (s : State) : Keeps s s.continueCancel := by
  unfold State.continueCancel
  split
  · exact postLiftMoves_keeps s
  · exact resumeTimer_keeps s
  · exact Keeps.refl s

theorem carryOutCancel_keeps (s : State) : Keeps s s.carryOutCancel := by
  unfold State.carryOutCancel
  dsimp only
  split
  · exact (discardPause_keeps s).trans (continueCancel_keeps _)
  · exact (((discardPause_keeps s).trans (updateHead_keeps _ _)).trans (beginLift_keeps _ _ _)).trans
      (setSeq_keeps _ _ fun _ => by simp)

theorem freeEndLift_keeps (s : State) : Keeps s s.freeEndLift :=
  (discardPause_keeps s).trans (postLiftMoves_keeps _)

theorem testCancel_keeps (s : State) : Keeps s s.testCancel :=
  Keeps.ite (carryOutCancel_keeps s) (Keeps.ite (freeEndLift_keeps s) (Keeps.refl s))

theorem latch_keeps (c : HoldClass) (k : HoldCause) (s : State) : Keeps s (s.latch c k) :=
  Keeps.ite (Keeps.refl s)
    ((((setHolds_sameStack_keeps _ s (by rfl)).trans (raise_keeps _ (f := .holdChange) (by decide))).trans
      (enterPending_keeps _)).trans (testCancel_keeps _))

/-! ## The holds change no claim -/

theorem updateHead_claims (f : Job → Job) (s : State) : (s.updateHead f).claims = s.claims := by
  unfold State.updateHead; split <;> rfl

theorem updateRecord_claims (f : DipRecord → DipRecord) (s : State) : (s.updateRecord f).claims = s.claims := by
  unfold State.updateRecord; split <;> rfl

theorem postLiftMoves_claims (s : State) : s.postLiftMoves.claims = s.claims := by
  unfold State.postLiftMoves; dsimp only; split <;> split <;> rfl

theorem resumeTimer_claims (s : State) : s.resumeTimer.claims = s.claims := by
  unfold State.resumeTimer; split <;> rfl

theorem beginLift_claims (w : LiftFor) (k : Bool) (s : State) : (s.beginLift w k).claims = s.claims := by
  have a : s.abandonForLift.claims = s.claims := by unfold State.abandonForLift; dsimp only; split <;> rfl
  have b : s.abandonForLift.stopTravel.claims = s.claims := by rw [← a]; unfold State.stopTravel; split <;> rfl
  unfold State.beginLift
  dsimp only
  rw [postLiftMoves_claims, ← b]
  split <;> rfl

theorem freeze_claims (s : State) : s.freeze.claims = s.claims := by
  have a : s.postStops.suspendTimer.claims = s.claims := by unfold State.suspendTimer; split <;> rfl
  rw [← a]
  unfold State.freeze
  dsimp only
  split <;> rfl

theorem liftAction_claims (c : HoldClass) (s : State) : (s.liftAction c).claims = s.claims := by
  unfold State.liftAction State.beginHoldLift
  rw [beginLift_claims]
  have a : ∀ u : State, u.dropLiftPending.claims = u.claims := by
    intro u; unfold State.dropLiftPending; split <;> rfl
  have b : ∀ u : State, (u.noteAbortedBath c).claims = u.claims := by
    intro u
    unfold State.noteAbortedBath
    split
    · exact updateRecord_claims _ u
    · rfl
  exact (a _).trans ((b _).trans (updateHead_claims _ s))

theorem enterPending_claims (s : State) : s.enterPending.claims = s.claims := by
  have r : ∀ (c : HoldClass) (u : State), (u.recordHold c).claims = u.claims := by
    intro c u
    unfold State.recordHold
    split
    · exact updateRecord_claims _ u
    · rfl
  have e : ∀ p : PendingHold, (s.enterHold p).claims = s.claims := by
    intro p
    unfold State.enterHold
    dsimp only
    split
    · exact (freeze_claims _).trans (r _ _)
    · exact (liftAction_claims _ _).trans (r _ _)
  unfold State.enterPending
  split
  · rfl
  · split
    · exact e _
    · split
      · exact e _
      · rfl

theorem discardPause_claims (s : State) : s.discardPause.claims = s.claims := by
  unfold State.discardPause
  split
  · split <;> rfl
  · rfl

theorem testCancel_claims (s : State) : s.testCancel.claims = s.claims := by
  have c : s.carryOutCancel.claims = s.claims := by
    unfold State.carryOutCancel
    dsimp only
    split
    · unfold State.continueCancel
      split
      · exact (postLiftMoves_claims _).trans (discardPause_claims s)
      · exact (resumeTimer_claims _).trans (discardPause_claims s)
      · exact discardPause_claims s
    · exact (beginLift_claims _ _ _).trans ((updateHead_claims _ _).trans (discardPause_claims s))
  unfold State.testCancel
  split
  · exact c
  · split
    · exact (postLiftMoves_claims _).trans (discardPause_claims s)
    · rfl

theorem latch_claims (c : HoldClass) (k : HoldCause) (s : State) : (s.latch c k).claims = s.claims := by
  unfold State.latch
  split
  · rfl
  · exact (testCancel_claims _).trans (enterPending_claims _)

end Sys2Proof.Machine
end

