-- ==== Sys2Proof/Laws/KeepsClaims.lean ====
section
/-! SUPPORT. What the operations of the Claim Unit and the Account Unit keep: one lemma per operation. -/

set_option Elab.async false

namespace Sys2Proof.Machine

/-! ## Claims -/

theorem takeTicket_keeps (s : State) : Keeps s s.takeTicket := Keeps.of_key rfl rfl

/-- Identities with one more: a new one of a station's own at an ACTIVE station that had at most one, or a new one of
another rank that had at most one other. -/
theorem ClaimsBounded.append {st : StationState} {own o : Rank} {n : BitVec 16} {l : List (Rank × BitVec 16)}
    {a b : Option HeldFrame} (h : ClaimsBounded st own l a b) (room : (l.filter fun i => i.1 == o).length ≤ 1)
    (hs : st ≠ .offline ∧ st ≠ .loading) (ho : o = own ∧ st = .active ∨ o ≠ own ∧ (o, n) ∉ l) :
    ClaimsBounded st own (l ++ [(o, n)]) a b where
  limited := fun r => by
    rw [List.filter_append, List.length_append]
    have := h.limited r
    by_cases e : r = o
    · subst e
      have : ([(r, n)].filter fun i => i.1 == r).length ≤ 1 := List.length_filter_le _ _
      omega
    · have e : [(o, n)].filter (fun i => i.1 == r) = [] := by simp [Ne.symm e]
      rw [e]; simpa using h.limited r
  unique := by
    rw [List.filter_append]
    rcases ho with ⟨rfl, _⟩ | ⟨x, y⟩
    · have e : [(o, n)].filter (fun i => i.1 != o) = [] := by simp
      rw [e, List.append_nil]; exact h.unique
    · have e : [(o, n)].filter (fun i => i.1 != own) = [(o, n)] := by simp [x]
      rw [e, List.nodup_append]
      refine ⟨h.unique, by simp, ?_⟩
      intro i hi j hj
      rw [List.mem_singleton.mp hj]
      rintro rfl
      exact y (List.mem_filter.mp hi).1
  owned := fun x i hi => by
    rcases List.mem_append.mp hi with m | m
    · exact h.owned x i m
    · rcases ho with ⟨_, z⟩ | ⟨z, _⟩
      · exact absurd z x
      · rw [List.mem_singleton.mp m]; exact z
  unclaimed := fun x => by rcases x with x | x; exact absurd x hs.1; exact absurd x hs.2
  listsA := h.listsA
  listsB := h.listsB

/-- A table with one entry more has its identity more. -/
theorem identities_append (t : List ClaimEntry) (e : ClaimEntry) :
    identities (t ++ [e]) = identities t ++ [(e.origin, e.number)] := by
  unfold identities; rw [List.map_append]; rfl

/-- An own claim entered where the station is ACTIVE and has at most one. -/
theorem enterOwn_keeps (k : ClaimKind) (sp : Span) (r : Nat) (g : Option (BitVec 16)) (c : ClaimState) {s u : State}
    (hu : Keeps s u) (ha : s.roster.state = .active)
    (h : s.Sound → ((identities u.claims.table).filter fun i => i.1 == s.own).length ≤ 1) :
    Keeps s (u.enterOwn k sp r g c) := by
  unfold State.enterOwn
  have hv := hu.trans (takeTicket_keeps u)
  refine Keeps.trans (setTable_bounded_from hv _ fun x => ?_) (post_keeps _ _ _)
  rw [identities_append, hv.own]
  have y := (hv.sound x).bounded
  rw [hv.station, hv.own] at y
  rw [hv.station]
  exact y.append (h x) (by rw [ha]; decide) (.inl ⟨rfl, ha⟩)

/-- As many own identities as own entries stand in the table. -/
theorem own_identities (s : State) :
    ((identities s.claims.table).filter fun i => i.1 == s.own).length = s.ownEntries.length := by
  unfold identities State.ownEntries State.isOwn
  rw [List.filter_map, List.length_map]
  rfl

theorem issue_keeps (k : ClaimKind) (sp : Span) (r : Nat) (g : BitVec 16) (s : State)
    (ha : s.roster.state = .active) (h : s.ownEntries.length < 2) : Keeps s (s.issue k sp r g) := by
  have l : s.Sound → ((identities s.claims.table).filter fun i => i.1 == s.own).length ≤ 1 :=
    fun _ => by rw [own_identities]; omega
  unfold State.issue
  dsimp only
  split
  · exact enterOwn_keeps _ _ _ _ _ (Keeps.refl s) ha l
  · exact enterOwn_keeps _ _ _ _ _ (Keeps.refl s) ha l

/-- A claim that no test of R9 refuses is asked of an ACTIVE station with fewer than two own entries. -/
theorem issueRefusal_none {k : ClaimKind} {sp : Span} {r : Nat} {s : State} (h : s.issueRefusal k sp r = none) :
    s.roster.state = .active ∧ s.ownEntries.length < 2 := by
  unfold State.issueRefusal at h
  split at h
  · cases h
  · rename_i a
    split at h
    · cases h
    · rename_i b
      exact ⟨by simpa using a, by omega⟩

theorem askClaim_keeps (k : ClaimKind) (sp : Span) (r : Nat) (g : BitVec 16) (s : State) :
    Keeps s (s.askClaim k sp r g).1 := by
  unfold State.askClaim
  split
  · exact Keeps.refl s
  · rename_i e
    exact issue_keeps _ _ _ _ s (issueRefusal_none e).1 (issueRefusal_none e).2

theorem deferGranted_keeps (sp : Span) (s : State) : Keeps s (s.deferGranted sp) :=
  mapTable_keeps (by intro e; split <;> exact ⟨rfl, rfl⟩) s

/-- The RECOVERY claim of an ACTIVE station that has no other. -/
theorem issueRecovery_keeps (s : State) (ha : s.roster.state = .active)
    (h : s.Sound → ∀ i ∈ identities s.claims.table, i.1 ≠ s.own) : Keeps s s.issueRecovery := by
  unfold State.issueRecovery
  split
  · rename_i sp _
    refine enterOwn_keeps _ _ _ _ _ (deferGranted_keeps sp s) ha fun x => ?_
    have e : identities (s.deferGranted sp).claims.table = identities s.claims.table :=
      identities_map (by intro e; split <;> exact ⟨rfl, rfl⟩) _
    rw [e, List.filter_eq_nil_iff.mpr (fun i hi => by simpa using h x i hi)]
    decide
  · exact Keeps.refl s

theorem postVerdict_keeps (e : ClaimEntry) (v : Verdict) (s : State) : Keeps s (s.postVerdict e v) :=
  Keeps.ite (post_keeps _ _ s) (Keeps.refl s)

theorem answerRepeat_keeps (e : ClaimEntry) (s : State) : Keeps s (s.answerRepeat e) := by
  unfold State.answerRepeat
  split
  · exact Keeps.refl s
  · split
    · exact postVerdict_keeps _ _ s
    · exact Keeps.refl s

/-- Entries put in another state keep their identities. -/
theorem putState_keeps (o : Rank) (n : BitVec 16) (c : ClaimState) (s : State) :
    Keeps s (s.setTable (putState o n c s.claims.table)) :=
  mapTable_keeps (by intro e; split <;> exact ⟨rfl, rfl⟩) s

/-- The entries of an identity removed. -/
theorem removeEntry_keeps (o : Rank) (n : BitVec 16) (s : State) :
    Keeps s (s.setTable (removeEntry o n s.claims.table)) := filterTable_keeps _ s

theorem decideAgain_keeps (s : State) (e : ClaimEntry) : Keeps s (s.decideAgain e) := by
  unfold State.decideAgain
  dsimp only
  split
  · exact putState_keeps _ _ _ s
  · split
    · exact putState_keeps _ _ _ s
    · exact (putState_keeps _ _ _ s).trans (postVerdict_keeps _ _ _)

theorem reevaluate_keeps (s : State) : Keeps s s.reevaluate := Keeps.foldl decideAgain_keeps _ s

theorem endClaim_keeps (n : BitVec 16) (s : State) : Keeps s (s.endClaim n) := by
  unfold State.endClaim
  split
  · exact Keeps.refl s
  · exact ((post_keeps _ _ s).trans (removeEntry_keeps _ _ _)).trans (reevaluate_keeps _)

theorem endRecovery_keeps (s : State) : Keeps s s.endRecovery := by
  unfold State.endRecovery
  split
  · split
    · exact endClaim_keeps _ s
    · exact Keeps.refl s
  · exact Keeps.refl s

/-- A change of the grant set keeps an entry's identity. -/
theorem mapGrants_identity (f : List GrantSlot → List GrantSlot) (e : ClaimEntry) :
    (e.mapGrants f).origin = e.origin ∧ (e.mapGrants f).number = e.number := by
  unfold ClaimEntry.mapGrants; split <;> exact ⟨rfl, rfl⟩

theorem unmark_keeps (r : Rank) (s : State) : Keeps s (s.unmark r) := mapTable_keeps (mapGrants_identity _) s

theorem departClaims_keeps (r : Rank) (s : State) : Keeps s (s.departClaims r) := by
  refine mapTable_keeps (fun e => ?_) s
  have h : (e.makeStale r).origin = e.origin ∧ (e.makeStale r).number = e.number := by
    unfold ClaimEntry.makeStale
    split
    · split <;> exact ⟨rfl, rfl⟩
    · exact ⟨rfl, rfl⟩
  have k := mapGrants_identity (dropRank r) (e.makeStale r)
  exact ⟨k.1.trans h.1, k.2.trans h.2⟩

theorem testConflict_keeps (o : Rank) (c : ListedClaim) (s : State) : Keeps s (s.testConflict o c) :=
  Keeps.ite (latch_keeps _ _ s) (Keeps.refl s)

theorem tellRefused_keeps (n : BitVec 16) (s : State) : Keeps s (s.tellRefused n) := by
  unfold State.tellRefused
  dsimp only
  split
  · exact Keeps.refl s
  · split
    · exact updateHead_keeps _ s
    · split
      · split
        · exact (updateHead_keeps _ s).trans (setPhase_keeps _ _)
        · exact updateHead_keeps _ s
      · exact Keeps.refl s

theorem tellHeld_keeps (n : BitVec 16) (s : State) : Keeps s (s.tellHeld n) := by
  unfold State.tellHeld
  dsimp only
  split
  · exact Keeps.refl s
  · split
    · exact (updateHead_keeps _ s).trans (setClaimWait_keeps _ _)
    · split
      · split
        · exact ((updateHead_keeps _ s).trans (setClaimWait_keeps _ _)).trans (setPhase_keeps _ _)
        · exact (updateHead_keeps _ s).trans (setClaimWait_keeps _ _)
      · exact Keeps.refl s

theorem becomeHeld_keeps (s : State) (e : ClaimEntry) : Keeps s (s.becomeHeld e) :=
  (putState_keeps _ _ _ s).trans (tellHeld_keeps _ _)

theorem promote_keeps {s t : State} (h : s.promote = some t) : Keeps s t := by
  unfold State.promote at h
  rw [Option.map_eq_some_iff] at h
  obtain ⟨e, _, rfl⟩ := h
  exact becomeHeld_keeps s e

theorem promoteAll_keeps (s : State) : Keeps s s.promoteAll := Keeps.foldl becomeHeld_keeps _ s

/-- A requester told HELD changes no claim. -/
theorem tellHeld_claims (n : BitVec 16) (s : State) : (s.tellHeld n).claims = s.claims := by
  have u : ∀ (f : Job → Job) (t : State), (t.updateHead f).claims = t.claims := by
    intro f t; unfold State.updateHead; split <;> rfl
  unfold State.tellHeld
  dsimp only
  split
  · rfl
  · split
    · exact u _ s
    · split
      · split
        · exact u _ s
        · exact u _ s
      · rfl

/-- Claims that become HELD keep their identities. -/
theorem promoteAll_identities (s : State) : identities s.promoteAll.claims.table = identities s.claims.table := by
  have step : ∀ (u : State) (e : ClaimEntry), identities (u.becomeHeld e).claims.table = identities u.claims.table := by
    intro u e
    unfold State.becomeHeld
    rw [tellHeld_claims]
    exact identities_map (by intro x; split <;> exact ⟨rfl, rfl⟩) _
  have all : ∀ (l : List ClaimEntry) (u : State),
      identities (l.foldl State.becomeHeld u).claims.table = identities u.claims.table := by
    intro l
    induction l with
    | nil => intro u; rfl
    | cons a l ih => intro u; exact (ih _).trans (step u a)
  exact all _ s

/-! ## New entries -/

theorem insertByTicket_length (e : ClaimEntry) : ∀ l, (insertByTicket e l).length = l.length + 1
  | [] => rfl
  | f :: l => by
      unfold insertByTicket
      split
      · rfl
      · simp [insertByTicket_length e l]

theorem insertByTicket_mem (e x : ClaimEntry) : ∀ l, x ∈ insertByTicket e l → x = e ∨ x ∈ l
  | [], h => .inl (List.mem_singleton.mp h)
  | f :: l, h => by
      unfold insertByTicket at h
      split at h
      · exact List.mem_cons.mp h
      · rcases List.mem_cons.mp h with h | h
        · exact .inr (h ▸ List.mem_cons_self)
        · exact (insertByTicket_mem e x l h).imp id (List.mem_cons_of_mem _)

theorem sortByTicket_length (l : List ClaimEntry) : (sortByTicket l).length = l.length := by
  induction l with
  | nil => rfl
  | cons a l ih => exact (insertByTicket_length a _).trans (by rw [show l.foldr insertByTicket [] = sortByTicket l from rfl, ih]; rfl)

theorem sortByTicket_mem {x : ClaimEntry} {l : List ClaimEntry} (h : x ∈ sortByTicket l) : x ∈ l := by
  induction l with
  | nil => exact h
  | cons a l ih =>
      rcases insertByTicket_mem a x _ h with e | e
      · exact e ▸ List.mem_cons_self
      · exact List.mem_cons_of_mem _ (ih e)

/-- The identities of a rank, as many as its entries. -/
theorem identities_count (o : Rank) (t : List ClaimEntry) :
    ((identities t).filter fun i => i.1 == o).length = (t.filter fun e => e.origin == o).length := by
  unfold identities
  rw [List.filter_map, List.length_map]
  rfl

/-- An identity removed stands no more. -/
theorem removeEntry_absent (o : Rank) (n : BitVec 16) (t : List ClaimEntry) : (o, n) ∉ identities (removeEntry o n t) := by
  intro h
  obtain ⟨e, he, hi⟩ := List.mem_map.mp h
  have := (List.mem_filter.mp he).2
  simp only [Prod.mk.injEq] at hi
  simp [ClaimEntry.is, hi.1, hi.2] at this

/-- A list loses an element that a filter refuses. -/
theorem filter_shorter {α : Type} {p : α → Bool} {l : List α} {x : α} (h : x ∈ l) (hp : p x = false) :
    (l.filter p).length < l.length := by
  have := List.length_filter_lt_length_iff_exists (p := p) (l := l)
  exact this.mpr ⟨x, h, by simp [hp]⟩

/-- The third-claim rule leaves at most one entry of an origin that has none of the number and at most two in all. -/
theorem thirdClaim_room {o : Rank} {n : BitVec 16} {t : List ClaimEntry} (h : (o, n) ∉ identities t)
    (k : (t.filter fun e => e.origin == o).length ≤ 2) :
    ((thirdClaim o n t).filter fun e => e.origin == o).length ≤ 1 := by
  have same : (t.filter fun e => e.origin == o && e.number != n) = t.filter fun e => e.origin == o := by
    refine List.filter_congr fun e he => ?_
    cases ho : e.origin == o with
    | false => rfl
    | true =>
        have : e.number ≠ n := fun hn => h (List.mem_map.mpr ⟨e, he, by rw [beq_iff_eq.mp ho, hn]⟩)
        simp [this]
  unfold thirdClaim
  rw [same]
  have len := sortByTicket_length (t.filter fun e => e.origin == o)
  have mem := @sortByTicket_mem (l := t.filter fun e => e.origin == o)
  split
  · rename_i e f rest q
    have he := mem (x := e) (by rw [q]; exact List.mem_cons_self)
    unfold removeEntry
    rw [List.filter_filter]
    have sw : (t.filter fun a => (a.origin == o) && !a.is e.origin e.number) =
        (t.filter fun a => a.origin == o).filter fun a => !a.is e.origin e.number := by
      rw [List.filter_filter]; exact List.filter_congr fun a _ => Bool.and_comm _ _
    rw [sw]
    have := filter_shorter (p := fun a => !a.is e.origin e.number) he (by simp [ClaimEntry.is])
    omega
  · rename_i q
    rw [← len]
    revert q
    generalize sortByTicket (t.filter fun e => e.origin == o) = l
    intro q
    match l, q with
    | [], _ => simp
    | [_], _ => simp
    | a :: b :: c, q => exact absurd rfl (q a b c)

theorem thirdClaim_sublist (o : Rank) (n : BitVec 16) (t : List ClaimEntry) :
    (identities (thirdClaim o n t)).Sublist (identities t) := by
  unfold thirdClaim
  split
  · exact identities_filter _ t
  · exact List.Sublist.refl _

theorem makeRoom_sublist (o : Rank) (n : BitVec 16) (s : State) :
    (identities (s.makeRoom o n).claims.table).Sublist (identities (removeEntry o n s.claims.table)) := by
  unfold State.makeRoom
  rw [promoteAll_identities]
  exact thirdClaim_sublist o n _

theorem makeRoom_keeps (o : Rank) (n : BitVec 16) (s : State) : Keeps s (s.makeRoom o n) :=
  (setTable_keeps _ s ((thirdClaim_sublist o n _).trans (identities_filter _ _))).trans (promoteAll_keeps _)

/-- There is room for a claim that has been made room for. -/
theorem makeRoom_room (o : Rank) (n : BitVec 16) (s : State) (x : s.Sound) :
    ((identities (s.makeRoom o n).claims.table).filter fun i => i.1 == o).length ≤ 1 := by
  unfold State.makeRoom
  rw [promoteAll_identities]
  show ((identities (thirdClaim o n (removeEntry o n s.claims.table))).filter _).length ≤ 1
  rw [identities_count]
  refine thirdClaim_room (removeEntry_absent o n _) ?_
  rw [← identities_count]
  exact Nat.le_trans ((identities_filter _ _).filter _).length_le (x.bounded.limited o)

/-- A foreign claim added where there is room for it, after other changes. -/
theorem addClaim_keeps {s u : State} {e : ClaimEntry} (hu : Keeps s u) (ho : e.origin ≠ s.own)
    (hs : s.roster.state ≠ .offline ∧ s.roster.state ≠ .loading)
    (room : s.Sound → ((identities u.claims.table).filter fun i => i.1 == e.origin).length ≤ 1)
    (new : s.Sound → (e.origin, e.number) ∉ identities u.claims.table) : Keeps s (u.addClaim e) := by
  refine setTable_bounded_from hu _ fun x => ?_
  rw [identities_append]
  have y := (hu.sound x).bounded
  rw [hu.station, hu.own] at y ⊢
  exact y.append (room x) hs (.inr ⟨ho, new x⟩)

theorem joined_station {s : State} (h : s.joined = true) :
    s.roster.state ≠ .offline ∧ s.roster.state ≠ .loading := by
  unfold State.joined at h
  constructor <;> intro e <;> rw [e] at h <;> exact absurd h (by decide)

theorem enterNew_keeps {o : Rank} (c : ListedClaim) {s : State} (ho : o ≠ s.own) (hj : s.joined = true) :
    Keeps s (s.enterNew o c) := by
  have add : ∀ st, Keeps s ((s.makeRoom o c.number).addClaim (c.entry o st)) := fun st =>
    addClaim_keeps (makeRoom_keeps o c.number s) ho (joined_station hj) (makeRoom_room o c.number s)
      fun _ h => removeEntry_absent o c.number _ ((makeRoom_sublist o c.number s).subset h)
  unfold State.enterNew
  dsimp only
  split
  · exact (add _).trans (testConflict_keeps _ _ _)
  · split
    · exact add _
    · exact ((add _).trans (putState_keeps _ _ _ _)).trans (postVerdict_keeps _ _ _)

theorem takeClaim_keeps {o : Rank} (c : ListedClaim) {s : State} (ho : o ≠ s.own) (hj : s.joined = true) :
    Keeps s (s.takeClaim o c) := by
  unfold State.takeClaim
  have k := raiseTicket_keeps c.ticket s
  have new : Keeps s ((s.raiseTicket c.ticket).enterNew o c) := k.trans (enterNew_keeps c ho hj)
  dsimp only
  split
  · split
    · split
      · exact k.trans (answerRepeat_keeps _ _)
      · exact new
    · exact new
  · exact k

theorem takeVerdict_keeps (o : Rank) (n : BitVec 16) (v : Verdict) {told : State → State}
    (h : ∀ u, Keeps u (told u)) (s : State) : Keeps s (s.takeVerdict o n v told) := by
  unfold State.takeVerdict
  split
  · split
    · split
      · split
        · exact putState_keeps _ _ _ s
        · exact putState_keeps _ _ _ s
        · exact (endClaim_keeps _ s).trans (h _)
      · exact Keeps.refl s
    · exact Keeps.refl s
  · exact Keeps.refl s

theorem takeRelease_keeps (o : Rank) (n : BitVec 16) (s : State) : Keeps s (s.takeRelease o n) := by
  unfold State.takeRelease
  split
  · exact (removeEntry_keeps _ _ s).trans (unmark_keeps _ _)
  · exact Keeps.refl s

theorem vacateRank_keeps (r : Rank) (s : State) : Keeps s (s.vacateRank r) := filterTable_keeps _ s

theorem censusRepair_keeps (o : Rank) (f : BeaconFields) (s : State) : Keeps s (s.censusRepair o f) := by
  unfold State.censusRepair
  dsimp only
  split
  · exact ((raiseTicket_keeps _ s).trans (filterTable_keeps _ _)).trans (unmark_keeps _ _)
  · exact raiseTicket_keeps _ s

/-- A list without doubles is no longer than one that holds its elements. -/
theorem nodup_length_le {α : Type} [DecidableEq α] : ∀ {l m : List α}, l.Nodup → (∀ x ∈ l, x ∈ m) → l.length ≤ m.length
  | [], _, _, _ => Nat.zero_le _
  | a :: l, m, h, k => by
      have hn := List.nodup_cons.mp h
      have ih : l.length ≤ (m.erase a).length := nodup_length_le hn.2 fun x hx =>
        (List.mem_erase_of_ne (by rintro rfl; exact hn.1 hx)).mpr (k x (List.mem_cons_of_mem _ hx))
      have := List.length_erase_of_mem (k a List.mem_cons_self)
      have pos : 0 < m.length := List.length_pos_of_mem (k a List.mem_cons_self)
      simp only [List.length_cons]
      omega

/-- The claims of a rank in a table all stand in a list of claims. -/
def listedIn (o : Rank) (l : List ListedClaim) (t : List ClaimEntry) : Prop :=
  ∀ i ∈ identities t, i.1 = o → i.2 ∈ l.map (·.number)

theorem testConflict_claims (o : Rank) (c : ListedClaim) (s : State) : (s.testConflict o c).claims = s.claims := by
  unfold State.testConflict
  split
  · exact latch_claims _ _ s
  · rfl

/-- One listed claim entered, among the claims of a list that is no longer than the limit. -/
theorem enterListed_step {o : Rank} {l : List ListedClaim} {c : ListedClaim} {s u : State} (hc : c ∈ l) (ho : o ≠ s.own)
    (hs : s.roster.state ≠ .offline ∧ s.roster.state ≠ .loading) (hl : s.Sound → l.length ≤ 2)
    (hu : Keeps s u) (hi : listedIn o l u.claims.table) :
    Keeps s (State.enterListed o u c) ∧ listedIn o l (State.enterListed o u c).claims.table := by
  unfold State.enterListed
  split
  · dsimp only
    split
    · exact ⟨hu, hi⟩
    · have room := hu.trans ((removeEntry_keeps o c.number u).trans (promoteAll_keeps _))
      have ids : identities (u.setTable (removeEntry o c.number u.claims.table)).promoteAll.claims.table =
          identities (removeEntry o c.number u.claims.table) := promoteAll_identities _
      have sub := identities_filter (fun e => !e.is o c.number) u.claims.table
      have new : (o, c.number) ∉ identities (removeEntry o c.number u.claims.table) := removeEntry_absent o c.number _
      refine ⟨Keeps.trans (addClaim_keeps room ho hs (fun x => ?_) fun _ => by rw [ids]; exact new)
        (testConflict_keeps _ _ _), ?_⟩
      · show ((identities _).filter fun i => i.1 == o).length ≤ 1
        rw [ids]
        have un := (hu.sound x).bounded.unique
        rw [hu.own] at un
        have nd : (((identities (removeEntry o c.number u.claims.table)).filter fun i => i.1 == o) ++ [(o, c.number)]).Nodup := by
          rw [List.nodup_append]
          refine ⟨?_, by simp, ?_⟩
          · have e : ((identities (removeEntry o c.number u.claims.table)).filter fun i => i.1 == o) =
                ((identities (removeEntry o c.number u.claims.table)).filter fun i => i.1 != s.own).filter
                  fun i => i.1 == o := by
              rw [List.filter_filter]
              refine List.filter_congr fun i _ => ?_
              cases q : i.1 == o with
              | false => rfl
              | true => rw [beq_iff_eq.mp q]; simp [ho]
            rw [e]
            exact (un.sublist (sub.filter _)).sublist List.filter_sublist
          · intro i hi' j hj
            rw [List.mem_singleton.mp hj]
            rintro rfl
            exact new (List.mem_filter.mp hi').1
        have := nodup_length_le (m := l.map fun d => (o, d.number)) nd fun i hi' => by
          rcases List.mem_append.mp hi' with m | m
          · have m := List.mem_filter.mp m
            have q := hi i (sub.subset m.1) (beq_iff_eq.mp m.2)
            obtain ⟨d, hd, e⟩ := List.mem_map.mp q
            exact List.mem_map.mpr ⟨d, hd, by rw [e, ← beq_iff_eq.mp m.2]⟩
          · rw [List.mem_singleton.mp m]; exact List.mem_map.mpr ⟨c, hc, rfl⟩
        have := hl x
        simp only [List.length_append, List.length_cons, List.length_nil, List.length_map] at *
        omega
      · intro i hi' e
        rw [testConflict_claims] at hi'
        have hi' : i ∈ identities (_ ++ [_]) := hi'
        rw [identities_append, ids] at hi'
        rcases List.mem_append.mp hi' with m | m
        · exact hi i (sub.subset m) e
        · rw [List.mem_singleton.mp m]; exact List.mem_map.mpr ⟨c, hc, rfl⟩
  · exact ⟨hu, hi⟩

theorem takeState_keeps {o : Rank} (n : Nat) (l : List ListedClaim) {s : State} (ho : o ≠ s.own)
    (hj : s.joined = true) (hl : s.Sound → l.length ≤ 2) : Keeps s (s.takeState o n l) := by
  unfold State.takeState
  refine Keeps.trans ?_ (unmark_keeps _ _)
  have k : Keeps s (l.foldl (fun u c => u.raiseTicket c.ticket) (s.raiseTicket n)) :=
    (raiseTicket_keeps _ s).trans (Keeps.foldl (fun u c => raiseTicket_keeps _ u) l _)
  revert k
  generalize l.foldl (fun u c => u.raiseTicket c.ticket) (s.raiseTicket n) = t
  intro k
  have all : ∀ (m : List ListedClaim) (u : State), (∀ c ∈ m, c ∈ l) → Keeps s u → listedIn o l u.claims.table →
      Keeps s (m.foldl (State.enterListed o) u) := by
    intro m
    induction m with
    | nil => intro u _ hu _; exact hu
    | cons c m ih =>
        intro u hm hu hi
        have st := enterListed_step (hm c List.mem_cons_self) ho (joined_station hj) hl hu hi
        exact ih _ (fun d hd => hm d (List.mem_cons_of_mem _ hd)) st.1 st.2
  refine all l _ (fun _ h => h) (k.trans ((filterTable_keeps _ t).trans (promoteAll_keeps _))) ?_
  intro i hi e
  rw [promoteAll_identities] at hi
  obtain ⟨x, hx, rfl⟩ := List.mem_map.mp hi
  have := (List.mem_filter.mp hx).2
  have e : x.origin = o := e
  simp only [e, bne_self_eq_false, Bool.false_or, List.any_eq_true, beq_iff_eq] at this
  obtain ⟨c, hc, h⟩ := this
  exact List.mem_map.mpr ⟨c, hc, h⟩

theorem resendClaim_keeps (e : ClaimEntry) (s : State) : Keeps s (s.resendClaim e) := by
  unfold State.resendClaim
  dsimp only
  split
  · split
    · exact (putState_keeps _ _ _ s).trans (post_keeps _ _ _)
    · exact putState_keeps _ _ _ s
  · exact Keeps.refl s

/-! ## Account -/

/-- The account changed in neither the committed amount nor a list. -/
theorem setAccount_plain_keeps (a : Account) (s : State) (hc : a.committed = s.account.committed)
    (hr : a.retained = s.account.retained) (hh : a.holding = s.account.holding) : Keeps s (s.setAccount a) :=
  setAccount_keeps a s hc (fun h => hr ▸ h) (fun h => hh ▸ h)

theorem askCheckpoint_keeps (s : State) : Keeps s s.askCheckpoint := Keeps.of_key rfl rfl

theorem countClamp_keeps (s : State) : Keeps s s.countClamp := Keeps.of_key rfl rfl

theorem countApplied_keeps (s : State) : Keeps s s.countApplied :=
  Keeps.ite (Keeps.of_key rfl rfl) (askCheckpoint_keeps s)

theorem applyAmount_keeps (a : Int) (s : State) : Keeps s (s.applyAmount a) := by
  unfold State.applyAmount
  dsimp only
  split
  · exact (((setAccount_plain_keeps _ s (by rfl) (by rfl) (by rfl)).trans (countClamp_keeps _)).trans
      (countApplied_keeps _)).trans (tellAccountChange_keeps _)
  · exact ((setAccount_plain_keeps _ s (by rfl) (by rfl) (by rfl)).trans (countApplied_keeps _)).trans
      (tellAccountChange_keeps _)

theorem testFloor_keeps (s : State) : Keeps s s.testFloor := Keeps.ite (latch_keeps _ _ s) (Keeps.refl s)

theorem retain_length (e : Entry) (l : List Entry) (h : l.length ≤ 16) : (retain e l).length ≤ 16 := by
  unfold retain; split <;> simp <;> omega

theorem originate_keeps (k : EntryKind) (a : Int) (d : Option Nat) (s : State) : Keeps s (s.originate k a d) := by
  unfold State.originate
  dsimp only
  refine Keeps.trans ?_ (post_keeps _ _ _)
  refine Keeps.trans ?_ (setAccount_keeps _ _ (by rfl) (by exact retain_length _ _) (by exact id))
  exact (((setAccount_plain_keeps _ s (by rfl) (by rfl) (by rfl)).trans (applyAmount_keeps _ _)).trans
    (testFloor_keeps _)).trans (setApplied_keeps _ _ _)

theorem originateDraw_keeps (d : DeferredDraw) (s : State) : Keeps s (s.originateDraw d) :=
  Keeps.ite ((raise_keeps s (by decide)).trans (originate_keeps _ _ _ _)) (originate_keeps _ _ _ s)

theorem askDraw_keeps (d : DeferredDraw) (s : State) : Keeps s (s.askDraw d) :=
  Keeps.ite (setAccount_plain_keeps _ s (by rfl) (by rfl) (by rfl)) (originateDraw_keeps _ s)

theorem originateDeferred_keeps (s : State) : Keeps s s.originateDeferred := by
  unfold State.originateDeferred
  split
  · exact (setAccount_plain_keeps _ s (by rfl) (by rfl) (by rfl)).trans (originateDraw_keeps _ _)
  · exact Keeps.refl s

theorem hold_keeps (e : Entry) (s : State) : Keeps s (s.hold e) := by
  unfold State.hold
  split
  · exact Keeps.refl s
  · rename_i h
    refine setAccount_keeps _ s (by rfl) (by exact id) ?_
    intro _
    simp only [Bool.or_eq_true, decide_eq_true_eq, not_or, Nat.not_le] at h
    simp only [List.length_append, List.length_cons, List.length_nil]
    omega

theorem applyInLine_keeps (e : Entry) (s : State) : Keeps s (s.applyInLine e) :=
  (applyAmount_keeps _ s).trans (setApplied_keeps _ _ _)

theorem filterHolding_keeps (p : Entry → Bool) (s : State) :
    Keeps s (s.setAccount { s.account with holding := s.account.holding.filter p }) :=
  setAccount_keeps _ s rfl id fun h => Nat.le_trans (List.length_filter_le _ _) h

theorem chain_keeps {apply : Entry → State → State} (h : ∀ e u, Keeps u (apply e u)) (r : Rank) :
    ∀ (n : Nat) (s : State), Keeps s (State.chain apply r n s)
  | 0, s => Keeps.refl s
  | n + 1, s => by
      unfold State.chain
      split
      · exact ((filterHolding_keeps _ s).trans (h _ _)).trans (chain_keeps h r n _)
      · exact Keeps.refl s

theorem dropDuplicates_keeps (r : Rank) (s : State) : Keeps s (s.dropDuplicates r) := filterHolding_keeps _ s

theorem testGap_keeps (r : Rank) (s : State) : Keeps s (s.testGap r) := by
  unfold State.testGap
  have h : Keeps s (match s.account.gaps[r] with
      | some g => if g.target ≤ s.account.applied[r] then s.setGap r none else s
      | none => s) := by
    split
    · exact Keeps.ite (setGap_keeps _ _ s) (Keeps.refl s)
    · exact Keeps.refl s
  exact h.trans (Keeps.ite (setAccountState_keeps _ _) (Keeps.refl _))

theorem takeInLine_keeps (e : Entry) (s : State) : Keeps s (s.takeInLine e) := by
  unfold State.takeInLine
  have h : ∀ (f : Entry) (u : State), Keeps u (u.applyInLine f).testFloor :=
    fun f u => (applyInLine_keeps f u).trans (testFloor_keeps _)
  exact (((h e s).trans (chain_keeps h _ _ _)).trans (dropDuplicates_keeps _ _)).trans (testGap_keeps _ _)

theorem askGap_keeps (r : Rank) (n : Nat) (s : State) : Keeps s (s.askGap r n) :=
  (setGap_keeps _ _ s).trans (post_keeps _ _ _)

theorem becomeGapped_keeps (s : State) : Keeps s s.becomeGapped :=
  Keeps.ite (setAccountState_keeps _ s) (Keeps.refl s)

theorem openGap_keeps (r : Rank) (n : Nat) (s : State) : Keeps s (s.openGap r n) := by
  unfold State.openGap
  split
  · exact askGap_keeps _ _ s
  · exact setGap_keeps _ _ s

theorem takeAhead_keeps (e : Entry) (s : State) : Keeps s (s.takeAhead e) :=
  ((hold_keeps e s).trans (openGap_keeps _ _ _)).trans (becomeGapped_keeps _)

theorem takeEntry_keeps (e : Entry) (s : State) : Keeps s (s.takeEntry e) := by
  unfold State.takeEntry
  split
  · exact Keeps.refl s
  · split
    · split
      · exact takeInLine_keeps e s
      · split
        · exact Keeps.refl s
        · exact takeAhead_keeps e s
    · exact hold_keeps e s

theorem emptyHolding_keeps (s : State) : Keeps s (s.setAccount { s.account with holding := [] }) :=
  setAccount_keeps _ s rfl id (fun _ => by simp)

theorem workThrough_keeps (s : State) : Keeps s s.workThrough := by
  unfold State.workThrough
  have h : ∀ u : State, Keeps s u → Keeps s (u.setAccount { u.account with holding := [] }) :=
    fun u hu => hu.trans (emptyHolding_keeps u)
  exact h _ (Keeps.foldl (fun u r => chain_keeps applyInLine_keeps r u.account.holding.length u) allRanks s)

theorem takeGap_keeps (r : Rank) (n : Nat) (s : State) : Keeps s (s.takeGap r n) := by
  unfold State.takeGap
  split
  · exact Keeps.refl s
  · split
    · exact post_keeps _ _ s
    · split
      · exact post_keeps _ _ s
      · exact Keeps.foldl (fun u e => post_keeps _ _ u) _ s

theorem fetchFrom_keeps (r : Option Rank) (s : State) : Keeps s (s.fetchFrom r) := by
  unfold State.fetchFrom
  cases r
  · exact setAccount_plain_keeps _ s (by rfl) (by rfl) (by rfl)
  · exact (post_keeps _ _ s).trans (setAccount_plain_keeps _ _ (by rfl) (by rfl) (by rfl))

theorem beginRebase_keeps (r : Option Rank) (s : State) : Keeps s (s.beginRebase r) := by
  unfold State.beginRebase
  dsimp only
  refine Keeps.trans (Keeps.trans (Keeps.trans ?_ (setAccount_plain_keeps _ _ (by rfl) (by rfl) (by rfl)))
    (setAccountState_keeps _ _)) (fetchFrom_keeps _ _)
  exact Keeps.ite (raise_keeps s (by decide)) (Keeps.refl s)

theorem takeFetch_keeps (r : Rank) (n : BitVec 16) (s : State) : Keeps s (s.takeFetch r n) :=
  Keeps.ite (post_keeps _ _ s) (Keeps.refl s)

theorem reapplyOwn_keeps (l : List Entry) (s : State) : Keeps s (s.reapplyOwn l) :=
  Keeps.foldl (fun u _ => (applyAmount_keeps _ u).trans (setApplied_keeps _ _ _)) l s

theorem noteLostOwn_keeps (n : Nat) (s : State) : Keeps s (s.noteLostOwn n) := by
  unfold State.noteLostOwn
  split
  · exact Keeps.ite (raise_keeps s (by decide)) (Keeps.refl s)
  · exact Keeps.refl s

theorem filterRetained_keeps (p : Entry → Bool) (s : State) :
    Keeps s (s.setAccount { s.account with retained := s.account.retained.filter p }) :=
  setAccount_keeps _ s rfl (fun h => Nat.le_trans (List.length_filter_le _ _) h) id

theorem reconcile_keeps (n : Nat) (s : State) : Keeps s (s.reconcile n) := by
  unfold State.reconcile
  exact (((filterRetained_keeps _ s).trans (reapplyOwn_keeps _ _)).trans (noteLostOwn_keeps _ _)).trans
    (setAccount_plain_keeps _ _ (by rfl) (by rfl) (by rfl))

theorem takeSnapshot_keeps (n : BitVec 16) (b : Nat) (v : Vector Nat 8) (s : State) :
    Keeps s (s.takeSnapshot n b v) := by
  unfold State.takeSnapshot
  split
  · refine Keeps.trans (Keeps.trans (Keeps.trans ?_ (originateDeferred_keeps _)) (testFloor_keeps _))
      (askCheckpoint_keeps _)
    exact (((setAccount_plain_keeps _ s (by rfl) (by rfl) (by rfl)).trans (reconcile_keeps _ _)).trans
      (workThrough_keeps _)).trans (setAccountState_keeps _ _)
  · exact Keeps.refl s

theorem trimRetained_keeps (r : Rank) (s : State) : Keeps s (s.trimRetained r) := by
  unfold State.trimRetained
  split
  · exact filterRetained_keeps _ s
  · exact Keeps.refl s

theorem resendGap_keeps (r : Rank) (g : OpenGap) (s : State) : Keeps s (s.resendGap r g) :=
  Keeps.ite (askGap_keeps _ _ s) (Keeps.refl s)

theorem gapCheck_keeps (r : Rank) (n : Nat) (s : State) : Keeps s (s.gapCheck r n) := by
  unfold State.gapCheck
  split
  · exact Keeps.refl s
  · split
    · split
      · exact (askGap_keeps _ _ s).trans (becomeGapped_keeps _)
      · exact (setGap_keeps _ _ s).trans (resendGap_keeps _ _ _)
    · split
      · exact beginRebase_keeps _ s
      · exact Keeps.refl s

theorem splitCheck_keeps (r : Rank) (f : BeaconFields) (s : State) : Keeps s (s.splitCheck r f) := by
  unfold State.splitCheck
  dsimp only
  split
  · split
    · exact (raise_keeps s (by decide)).trans (beginRebase_keeps _ _)
    · exact raise_keeps s (by decide)
  · exact Keeps.refl s

theorem accountBeacon_keeps (r : Rank) (f : BeaconFields) (s : State) : Keeps s (s.accountBeacon r f) :=
  ((trimRetained_keeps _ s).trans (gapCheck_keeps _ _ _)).trans (splitCheck_keeps _ _ _)

theorem takeGone_keeps (r : Rank) (n : Nat) (s : State) : Keeps s (s.takeGone r n) :=
  Keeps.ite (Keeps.refl s) (beginRebase_keeps _ s)

theorem departAccount_keeps (r : Rank) (s : State) : Keeps s (s.departAccount r) :=
  Keeps.ite (beginRebase_keeps _ s) (Keeps.refl s)

theorem settleAccount_keeps (s : State) : Keeps s s.settleAccount :=
  Keeps.ite (beginRebase_keeps _ s) ((workThrough_keeps s).trans (setAccountState_keeps _ _))

theorem placeCheckpoint_keeps {s t : State} (h : s.placeCheckpoint = some t) : Keeps s t := by
  unfold State.placeCheckpoint at h
  split at h
  · split at h
    · cases h
      exact (placeReady_keeps _ _ s).trans (setAccount_plain_keeps _ _ (by rfl) (by rfl) (by rfl))
    · cases h
  · cases h

theorem loadCheckpoint_keeps (c : Option RecordBody) (s : State) : Keeps s (s.loadCheckpoint c) := by
  unfold State.loadCheckpoint
  split
  · exact (setAccount_plain_keeps _ s (by rfl) (by rfl) (by rfl)).trans (raiseTicket_keeps _ _)
  · exact raise_keeps s (by decide)

end Sys2Proof.Machine
end

