-- ==== Sys2Proof/Laws/KeepsWalk.lean ====
section
/-! SUPPORT. What the Log Store's operations, the walk, Job Control and the reactions of an event keep; how to reason
about `settle`. -/

set_option Elab.async false

namespace Sys2Proof.Machine

/-! ## Log Store -/

/-- Nothing absent needs anything. -/
theorem of_none {α : Type} {P : α → Prop} : ∀ x ∈ (none : Option α), P x := fun _ h => by cases h

/-- What is present needs only what is asked of it. -/
theorem of_some {α : Type} {P : α → Prop} {a : α} (h : P a) : ∀ x ∈ some a, P x := fun _ k => by cases k; exact h

/-- No erase is in flight. -/
theorem not_erasing {o : ArrayOp} (h : ∀ x, o ≠ .erase x) : ∀ x, o = .erase x → x < 64 := fun x k => absurd k (h x)

theorem enterFull_keeps {x : Nat} (s : State) (hx : s.Formed → x < 64) : Keeps s (s.enterFull x) :=
  Keeps.of_key rfl rfl fun k => ⟨k.pages, of_none, of_none, of_some (hx k), k.erasing⟩

theorem lookAhead_keeps (x : Nat) (s : State) : Keeps s (s.lookAhead x) :=
  Keeps.ite (enterFull_keeps s fun _ => sectionAhead_lt x)
    (setLog_keeps _ s fun k => ⟨k.pages, k.writePos, of_some (sectionAhead_lt x), k.blocked, k.erasing⟩)

/-- The next EMPTY page after a page of the array is a page of the array. -/
theorem nextEmptyAfter_lt {l : List (Nat × PageContent)} {p q : Nat} (hp : p < 4096)
    (h : nextEmptyAfter l p = some q) : q < 4096 := by
  have := (nextEmptyAfter_some h).2.1
  unfold sectionOf pagesPerSection at this; omega

theorem advanceFrom_keeps (p : Nat) (s : State) (hp : s.Formed → p < 4096) : Keeps s (s.advanceFrom p) := by
  unfold State.advanceFrom
  split
  · rename_i q h
    exact setLog_keeps _ s fun k => ⟨k.pages, of_some (nextEmptyAfter_lt (hp k) h), k.due, k.blocked, k.erasing⟩
  · exact lookAhead_keeps _ s

theorem eraseSection_keeps {x : Nat} (s : State) (hx : s.Formed → x < 64) : Keeps s (s.eraseSection x) :=
  Keeps.of_key rfl rfl fun k => ⟨pagesWf_emptySection x k.pages, of_some (firstPage_lt (hx k)), of_none, k.blocked,
    fun y hy => by cases hy; exact hx k⟩

theorem beginAreaWrite_keeps {s t : State} (h : s.beginAreaWrite = some t) : Keeps s t := by
  unfold State.beginAreaWrite at h
  split at h
  · cases h; exact setLog_keeps _ s fun k => ⟨k.pages, k.writePos, k.due, k.blocked, not_erasing nofun⟩
  · cases h

theorem beginErase_keeps {s t : State} (h : s.beginErase = some t) : Keeps s t := by
  unfold State.beginErase at h
  split at h
  · split at h
    · rename_i sect e
      cases h
      exact Keeps.ite (enterFull_keeps s fun k => k.due sect e) (eraseSection_keeps s fun k => k.due sect e)
    · cases h
  · cases h

theorem beginCommit_keeps {s t : State} (h : s.beginCommit = some t) : Keeps s t := by
  unfold State.beginCommit at h
  split at h
  · split at h
    · cases h; exact setLog_keeps _ s fun k => ⟨k.pages, k.writePos, k.due, k.blocked, not_erasing nofun⟩
    · rename_i i r _ _
      cases h
      exact setLog_keeps _ s fun k =>
        ⟨k.pages, (setBuffer_formed i _ k).writePos, (setBuffer_formed i _ k).due, (setBuffer_formed i _ k).blocked,
          not_erasing nofun⟩
    · cases h
  · cases h

theorem endSequence_keeps (p : Nat) (s : State) (hp : s.Formed → p < 4096) : Keeps s (s.endSequence p) := by
  refine Keeps.of_key rfl rfl fun k => ⟨k.pages, of_some ?_, k.due, k.blocked, k.erasing⟩
  cases e : nextEmptyAfter s.flash.pages p with
  | none => exact hp k
  | some q => exact nextEmptyAfter_lt (hp k) e

/-- A page put in the array, with the Log Store changed but for its positions. -/
theorem putPage_setLog_keeps {p : Nat} (c : PageContent) (l : LogStore) (s : State) (hp : s.Formed → p < 4096)
    (hw : l.writePos = s.log.writePos) (hd : l.eraseDue = s.log.eraseDue) (hb : l.blocked = s.log.blocked)
    (ho : l.op = s.log.op ∨ l.op = .none) : Keeps s ((s.setPages (putPage p c s.flash.pages)).setLog l) := by
  refine Keeps.of_key rfl rfl fun k => ⟨pagesWf_putPage (hp k) c k.pages, ?_, ?_, ?_, ?_⟩
  · show ∀ q ∈ l.writePos, _; rw [hw]; exact k.writePos
  · show ∀ q ∈ l.eraseDue, _; rw [hd]; exact k.due
  · show ∀ q ∈ l.blocked, _; rw [hb]; exact k.blocked
  · show ∀ x, l.op = .erase x → _
    rcases ho with h | h
    · rw [h]; exact k.erasing
    · rw [h]; exact not_erasing nofun

theorem commitMatched_keeps (i : BufferId) (r : Record) (p : Nat) (s : State) (hp : s.log.writePos = some p) :
    Keeps s (s.commitMatched i r p) := by
  unfold State.commitMatched
  have h : Keeps s ((s.setPages (putPage p (.record r) s.flash.pages)).setLog
      { s.log.setBuffer i .free with failures := 0, op := .none }) := by
    cases i <;> exact putPage_setLog_keeps _ _ s (fun k => k.writePos p hp) rfl rfl rfl (.inr rfl)
  have hf : ((s.setPages (putPage p (.record r) s.flash.pages)).setLog
      { s.log.setBuffer i .free with failures := 0, op := .none }).Formed → p < 4096 := by
    cases i <;> exact fun k => k.writePos p hp
  exact h.trans (Keeps.ite (advanceFrom_keeps p _ hf) (endSequence_keeps p _ hf))

/-- The Log Store as a failed commit leaves it keeps the array's form. -/
theorem continueCommit_keeps (s : State) : Keeps s (s.setLog s.log.continueCommit) := by
  unfold LogStore.continueCommit
  split
  · exact setLog_keeps _ s
  · exact setLog_keeps _ s fun k => ⟨k.pages, k.writePos, k.due, k.blocked, not_erasing nofun⟩

theorem commitFailed_keeps (p : Nat) (s : State) (hp : s.log.writePos = some p) : Keeps s (s.commitFailed p) := by
  unfold State.commitFailed
  have h := putPage_setLog_keeps .invalid { s.log with failures := s.log.failures + 1 } s (fun k => k.writePos p hp)
    rfl rfl rfl (.inl rfl)
  dsimp only
  split
  · exact (h.trans (advanceFrom_keeps _ _ fun k => k.writePos p hp)).trans (continueCommit_keeps _)
  · exact h.trans (Keeps.of_key rfl rfl fun k => ⟨k.pages, k.writePos, k.due, k.blocked, not_erasing nofun⟩)

theorem endCommit_keeps (b : Bool) (s : State) : Keeps s (s.endCommit b) := by
  unfold State.endCommit
  split
  · rename_i h
    exact Keeps.ite (commitMatched_keeps _ _ _ s h) (commitFailed_keeps _ s h)
  · exact Keeps.refl s

theorem endErase_keeps (l : List Nat) (s : State) : Keeps s (s.endErase l) := by
  unfold State.endErase
  split
  · rename_i x e
    have h : Keeps s ((s.setPages (putInvalid x (l.filter (· < pagesPerSection)) s.flash.pages)).setLog
        { s.log with op := .none }) := by
      refine Keeps.of_key rfl rfl fun k => ⟨pagesWf_putInvalid (k.erasing x e) _ ?_ k.pages, k.writePos, k.due,
        k.blocked, not_erasing nofun⟩
      intro o ho
      exact of_decide_eq_true (List.mem_filter.mp ho).2
    dsimp only
    split
    · rename_i q n
      have hq : s.Formed → q < 4096 := fun k => by
        have := nextEmpty_some _ _ n
        have hx := k.erasing x e
        unfold firstPage pagesPerSection at this
        omega
      exact (Keeps.of_key rfl rfl fun k => ⟨(h.formed k).pages, of_some (hq k), k.due, k.blocked, not_erasing nofun⟩)
    · exact h.trans (lookAhead_keeps _ _)
  · exact Keeps.refl s

theorem resumeAfter_keeps (p : Nat) (s : State) (hp : s.Formed → p < 4096) : Keeps s (s.resumeAfter p) := by
  have h : Keeps s (s.setLog { s.log with writePos := some p }) :=
    setLog_keeps _ s fun k => ⟨k.pages, of_some (hp k), k.due, k.blocked, k.erasing⟩
  exact h.trans (advanceFrom_keeps _ _ fun k => k.writePos p rfl)

/-- The newest record stands on a page of the array. -/
theorem newestOf_mem {l : List (Nat × Record)} {q : Nat × Record} (h : newestOf l = some q) : q ∈ l := by
  induction l with
  | nil => cases h
  | cons a rest ih =>
      unfold newestOf at h
      split at h
      · rename_i r e
        split at h
        · cases h; exact List.mem_cons_of_mem _ (ih e)
        · cases h; exact List.mem_cons_self
      · cases h; exact List.mem_cons_self

theorem newestRecord_lt {l : List (Nat × PageContent)} {q : Nat × Record} (h : newestRecord l = some q)
    (w : pagesWf l = true) : q.1 < 4096 := by
  have := newestOf_mem h
  simp only [recordsOf, List.mem_filterMap] at this
  obtain ⟨a, ha, e⟩ := this
  have hq := ((pagesWf_iff l).mp w).2 a ha
  split at e
  · cases e; exact hq
  · cases e

theorem testBlocked_keeps (s : State) : Keeps s s.testBlocked := by
  unfold State.testBlocked
  split
  · rename_i _ b _ hb
    have h : Keeps s (s.setLog { s.log with state := .opened, blocked := none }) :=
      setLog_keeps _ s fun k => ⟨k.pages, k.writePos, k.due, of_none, k.erasing⟩
    have he : Keeps s ((s.setLog { s.log with state := .opened, blocked := none }).eraseSection b.sect) :=
      Keeps.of_key rfl rfl fun k => ⟨pagesWf_emptySection _ k.pages, of_some (firstPage_lt (k.blocked b hb)), of_none,
        of_none, fun y hy => by cases hy; exact k.blocked b hb⟩
    dsimp only
    split
    · exact Keeps.refl s
    · split
      · exact he
      · split
        · rename_i q n
          exact h.trans (resumeAfter_keeps _ _ fun k => newestRecord_lt n k.pages)
        · exact he
  · exact Keeps.refl s

theorem scanAfter_keeps (p : Nat) (s : State) (hp : s.Formed → p < 4096) : Keeps s (s.scanAfter p) := by
  refine Keeps.ite (Keeps.of_key rfl rfl fun k => ⟨k.pages, of_none, k.due, of_some (sectionOf_lt (hp k)), k.erasing⟩) ?_
  have h : Keeps s (s.setLog { s.log with state := .opened }) := setLog_keeps _ s
  exact h.trans (resumeAfter_keeps _ _ fun k => hp ⟨k.pages, k.writePos, k.due, k.blocked, k.erasing⟩)

theorem scanEmpty_keeps (s : State) : Keeps s s.scanEmpty :=
  Keeps.ite (Keeps.of_key rfl rfl fun k => ⟨k.pages, of_none, k.due, of_some (by decide), k.erasing⟩)
    (Keeps.ite (setLog_keeps _ s fun k => ⟨k.pages, of_some (by decide), k.due, k.blocked, k.erasing⟩)
      (setLog_keeps _ s fun k => ⟨k.pages, of_some (by decide), of_some (by decide), k.blocked, k.erasing⟩))

theorem loadCheckpoint_flash (c : Option RecordBody) (s : State) : (s.loadCheckpoint c).flash = s.flash := by
  unfold State.loadCheckpoint; split <;> rfl

/-- The scan's results for the other blocks. -/
theorem giveScan_keeps (c : Option RecordBody) (n m : Nat) (s : State) :
    Keeps s ({ s.loadCheckpoint c with
      jobs := { (s.loadCheckpoint c).jobs with nextDipId := n }
      log := { (s.loadCheckpoint c).log with nextSeq := m } } : State) :=
  (loadCheckpoint_keeps c s).trans (Keeps.of_key rfl rfl)

theorem takeScan_keeps (s : State) : Keeps s s.takeScan := by
  unfold State.takeScan
  have h := fun n m => giveScan_keeps (newestCheckpoint s.flash.pages) n m s
  dsimp only
  split
  · rename_i q e
    refine (h _ (heldInc q.2.seq)).trans (scanAfter_keeps _ _ fun k => newestRecord_lt e ?_)
    have w := k.pages
    simpa [loadCheckpoint_flash] using w
  · exact (h _ 1).trans (scanEmpty_keeps _)

/-! ## The walk -/

theorem programFault_keeps (f : ProgramFault) (s : State) : Keeps s (s.programFault f) := by
  unfold State.programFault
  exact (((bankDrain_keeps s).trans (setSeq_keeps _ _ (by exact id))).trans (updateFlags_keeps _ _)).trans
    (latch_keeps _ _ _)

theorem issueHoist_keeps (a b : Int) (v : Nat) (m : Modes) (s : State) : Keeps s (s.issueHoist a b v m) := by
  unfold State.issueHoist
  dsimp only
  split
  · exact programFault_keeps _ s
  · split <;> split
    · exact Keeps.refl s
    · exact postCommand_keeps _ _ s
    · exact postCommand_keeps _ _ s
    · exact (postCommand_keeps _ _ s).trans (postCommand_keeps _ _ _)

theorem armCaptures_keeps (s : State) : Keeps s s.armCaptures := Keeps.of_key rfl rfl

theorem startTiming_keeps (n : Nat) (s : State) : Keeps s (s.startTiming n) := setSeq_keeps _ s (by exact id)

theorem askShift_keeps (sp : Span) (j : Job) (s : State) : Keeps s (s.askShift sp j) := by
  unfold State.askShift
  have h := askClaim_keeps .shift sp j.draw j.tag s
  split <;> rename_i e <;> rw [e] at h
  · exact (h.trans (updateHead_keeps _ _)).trans (setPhase_keeps _ _)
  · exact ((h.trans (updateHead_keeps _ _)).trans (setClaimWait_keeps _ _)).trans (setPhase_keeps _ _)
  · exact h.trans (setPhase_keeps _ _)

theorem startShift_keeps (sp : Span) (s : State) : Keeps s (s.startShift sp) := by
  unfold State.startShift
  split
  · split
    · exact (setClaimWait_keeps _ s).trans (askShift_keeps _ _ _)
    · exact setPhase_keeps _ s
  · exact programFault_keeps _ s

theorem issueTravel_keeps (sp : Span) (s : State) : Keeps s (s.issueTravel sp) :=
  ((postCommand_keeps _ _ s).trans (setSeq_keeps _ _ (by exact id))).trans (setPhase_keeps _ _)

theorem endShift_keeps (sp : Span) (s : State) : Keeps s (s.endShift sp) := by
  unfold State.endShift
  dsimp only
  refine Keeps.trans (Keeps.trans (Keeps.trans ?_ (updateHead_keeps _ _)) (updateFlags_keeps _ _)) (setPhase_keeps _ _)
  split
  · exact endClaim_keeps _ s
  · exact Keeps.refl s

theorem startLoop_keeps (c e : Nat) (s : State) : Keeps s (s.startLoop c e) := by
  unfold State.startLoop
  split
  · rename_i h
    refine setSeq_keeps _ s fun _ => ?_
    simp only [List.length_cons]; omega
  · exact programFault_keeps _ s

theorem startDrain_keeps (n : Nat) (s : State) : Keeps s (s.startDrain n) :=
  Keeps.ite (programFault_keeps _ s) (Keeps.ite (setPhase_keeps _ s) (startTiming_keeps _ s))

theorem startKind_keeps (g : Segment) (s : State) : Keeps s (s.startKind g) := by
  unfold State.startKind
  split
  · split
    · exact ((armCaptures_keeps s).trans (setPhase_keeps _ _)).trans (issueHoist_keeps _ _ _ _ _)
    · exact (setPhase_keeps _ s).trans (issueHoist_keeps _ _ _ _ _)
  · exact Keeps.ite (setPhase_keeps _ s) (startTiming_keeps _ s)
  · exact startDrain_keeps _ s
  · exact setPhase_keeps _ s
  · exact startLoop_keeps _ _ s
  · exact startShift_keeps _ s

theorem startSegment_keeps (g : Segment) (s : State) : Keeps s (s.startSegment g) :=
  ((setHolds_sameStack_keeps _ s (by rfl)).trans (clearMarks_keeps _)).trans (startKind_keeps _ _)

theorem gotoSegment_keeps (i : Nat) (s : State) : Keeps s (s.gotoSegment i) := setSeq_keeps _ s (by exact id)

theorem startProgram_keeps (n : Nat) (s : State) : Keeps s (s.startProgram n) :=
  (setSeq_keeps _ s (fun _ => by simp)).trans (gotoSegment_keeps _ _)

theorem endTest_length (i : Nat) : ∀ l : List Loop, (endTest i l).1.length ≤ l.length
  | [] => by simp [endTest]
  | a :: rest => by
      unfold endTest
      split
      · split
        · simp
        · exact Nat.le_succ_of_le (endTest_length i rest)
      · simp

theorem recordWeight_keeps (r : Role) (s : State) : Keeps s (s.recordWeight r) := by
  unfold State.recordWeight
  split
  · exact Keeps.refl s
  · split <;> exact updateHead_keeps _ s

theorem resumeSegment_keeps (g : Segment) (s : State) : Keeps s (s.resumeSegment g) := by
  unfold State.resumeSegment
  split
  · exact issueHoist_keeps _ _ _ _ s
  · exact Keeps.ite (Keeps.refl s) (issueTravel_keeps _ s)
  · exact resumeTimer_keeps s

/-- Restoring a context whose repeat stack is no deeper than allowed. -/
theorem restoreContext_keeps (c : SavedContext) (s : State) (h : c.loops.length ≤ 4) :
    Keeps s (s.restoreContext c) := by
  have k : Keeps s (s.takeContext c) :=
    Keeps.ite (setSeq_keeps _ s fun _ => h) (Keeps.refl s)
  unfold State.restoreContext
  split
  · dsimp only
    split
    · exact k.trans (resumeSegment_keeps _ _)
    · exact k
  · exact postLiftMoves_keeps s
  · exact resumeTimer_keeps s
  · exact Keeps.refl s
  · exact Keeps.refl s

theorem travelTest_keeps (s : State) : Keeps s s.travelTest :=
  Keeps.ite (((postCommand_keeps _ _ s).trans (postCommand_keeps _ _ _)).trans (programFault_keeps _ _))
    (Keeps.refl s)

theorem syncTest_keeps (s : State) : Keeps s s.syncTest := by
  unfold State.syncTest
  split
  · split
    · exact Keeps.ite (latch_keeps _ _ s) (Keeps.refl s)
    · exact Keeps.refl s
  · exact Keeps.refl s

/-! ## Jobs -/

theorem writeResult_keeps (r : LastResult) (s : State) : Keeps s (s.writeResult r) := by
  unfold State.writeResult
  have h : Keeps s { s with jobs := { s.jobs with lastResult := some r } } := Keeps.of_key rfl rfl
  dsimp only
  split
  · exact (h.trans (raise_keeps _ (f := .resultLost) (by decide))).trans (raise_keeps _ (by decide))
  · exact h.trans (raise_keeps _ (by decide))

theorem removeJob_keeps (j : Job) (s : State) : Keeps s (s.removeJob j) := by
  have h : Keeps s { s with jobs := { s.jobs with list := s.jobs.list.filter fun k => k.tag != j.tag } } := by
    refine ⟨fun x => ⟨x.tied, x.stale, x.queue, x.rising, x.contexts, x.loops,
      Nat.le_trans (List.length_filter_le _ _) x.jobs, ?_, x.retained, x.holding, x.bounded⟩, rfl,
      fun x => ⟨x.pages, x.writePos, x.due, x.blocked, x.erasing⟩⟩
    have hq := x.queued
    revert hq
    cases s.jobs.list with
    | nil => simp
    | cons a rest =>
        intro hq k hk
        simp only [List.filter_cons] at hk
        simp only [List.tail_cons] at hq
        split at hk
        · exact hq k (List.mem_filter.mp hk).1
        · exact hq k (List.mem_filter.mp (List.mem_of_mem_tail hk)).1
  unfold State.removeJob
  dsimp only
  split
  · exact h
  · exact (h.trans (setClaimWait_keeps _ _)).trans (setLog_keeps _ _)

theorem endEarly_keeps (j : Job) (r : JobResult) (w : Option FailReason) (s : State) : Keeps s (s.endEarly j r w) :=
  (removeJob_keeps _ s).trans (writeResult_keeps _ _)

theorem stopSequencer_keeps (s : State) : Keeps s s.stopSequencer := setSeq_keeps _ s (fun _ => by simp)

theorem disarmCaptures_keeps (s : State) : Keeps s s.disarmCaptures := Keeps.of_key rfl rfl

theorem enterClosing_keeps (s : State) : Keeps s s.enterClosing :=
  (((updateHead_keeps _ s).trans (stopSequencer_keeps _)).trans (disarmCaptures_keeps _)).trans
    (dropLiftPending_keeps _)

theorem closeClaims_keeps (j : Job) (d : Nat) (s : State) : Keeps s (s.closeClaims j d) := by
  have h : Keeps s (if d = 0 then s else s.askDraw ⟨d, j.dipId.getD 0⟩) :=
    Keeps.ite (Keeps.refl s) (askDraw_keeps _ s)
  unfold State.closeClaims
  dsimp only
  cases j.claim <;> cases j.shiftClaim
  · exact h
  · exact h.trans (endClaim_keeps _ _)
  · exact h.trans (endClaim_keeps _ _)
  · exact (h.trans (endClaim_keeps _ _)).trans (endClaim_keeps _ _)

theorem closeRecord_keeps (j : Job) (d : Nat) (s : State) : Keeps s (s.closeRecord j d) := by
  unfold State.closeRecord
  split
  · exact ((placeReady_keeps _ _ s).trans (removeJob_keeps _ _)).trans (writeResult_keeps _ _)
  · exact (removeJob_keeps _ s).trans (writeResult_keeps _ _)

theorem closeJob_keeps (s : State) : Keeps s s.closeJob := by
  unfold State.closeJob
  split
  · exact stopSequencer_keeps s
  · exact (((enterClosing_keeps s).trans (updateFlags_keeps _ _)).trans (closeClaims_keeps _ _ _)).trans
      (closeRecord_keeps _ _ _)

theorem placeJob_keeps (a : IssueAnswer) (s : State) : Keeps s (s.placeJob a) := by
  unfold State.placeJob
  split
  · exact updateHead_keeps _ s
  · exact updateHead_keeps _ s
  · exact updateHead_keeps _ s
  · exact (updateHead_keeps _ s).trans (setClaimWait_keeps _ _)
  · exact Keeps.refl s

theorem askJobClaim_keeps (j : Job) (s : State) : Keeps s (s.askJobClaim j) :=
  (askClaim_keeps .dip j.span j.draw j.tag s).trans (placeJob_keeps _ _)

theorem settleJob_keeps (j : Job) (s : State) : Keeps s (s.settleJob j) :=
  Keeps.ite (askJobClaim_keeps j s) (updateHead_keeps _ s)

theorem admit_keeps {s t : State} (h : s.admitHead = some t) : Keeps s t := by
  unfold State.admitHead at h
  split at h
  · split at h
    · split at h
      · cases h
        exact ((setLog_keeps _ s).trans (setClaimWait_keeps _ _)).trans (settleJob_keeps _ _)
      · cases h
    · cases h
  · cases h

theorem retest_keeps {s t : State} (h : s.retest = some t) : Keeps s t := by
  unfold State.retest at h
  split at h
  · split at h
    · split at h
      · cases h; exact askJobClaim_keeps _ s
      · cases h; exact placeJob_keeps _ s
      · cases h; exact placeJob_keeps _ s
      · cases h
    · cases h
  · cases h

theorem fillCalled_keeps (d : DipRecord) (s : State) : Keeps s (s.fillCalled d) := by
  unfold State.fillCalled
  split
  · rename_i i _
    exact setLog_keeps _ s fun k => ⟨k.pages, (setBuffer_formed i _ k).writePos, (setBuffer_formed i _ k).due,
      (setBuffer_formed i _ k).blocked, (setBuffer_formed i _ k).erasing⟩
  · exact Keeps.refl s

theorem beginRunning_keeps (j : Job) (n : BitVec 16) (s : State) : Keeps s (s.beginRunning j n) := by
  unfold State.beginRunning
  dsimp only
  refine Keeps.trans (Keeps.trans ?_ (updateHead_keeps _ _)) (startProgram_keeps _ _)
  refine Keeps.trans (Keeps.trans (t := { s with jobs := { s.jobs with nextDipId := dipIdAfter s.jobs.nextDipId } })
    (Keeps.of_key rfl rfl) (fillCalled_keeps _ _)) (Keeps.of_key rfl rfl)

theorem startJob_keeps {s t : State} (h : s.startJob = some t) : Keeps s t := by
  unfold State.startJob at h
  split at h
  · split at h
    · split at h
      · cases h
        exact Keeps.ite (beginRunning_keeps _ _ s) ((endClaim_keeps _ s).trans (endEarly_keeps _ _ _ _))
      · cases h
    · cases h
  · cases h

theorem beginWeighing_keeps (s : State) : Keeps s s.beginWeighing := setSeq_keeps _ s (by exact id)

theorem weighOrClose_keeps (s : State) : Keeps s s.weighOrClose :=
  Keeps.ite (beginWeighing_keeps s) (closeJob_keeps s)

theorem endHoldLift_keeps (s : State) : Keeps s s.endHoldLift := by
  unfold State.endHoldLift
  split
  · rename_i e rest h
    split
    · exact Keeps.refl s
    · dsimp only
      have k := fun q (hq : q.loops = s.seq.loops) => (setSeq_keeps q s (fun x => hq ▸ x)).trans
        ((popHold_keeps (s.setSeq q) (e := e) (rest := rest) h
          { (s.setSeq q).holds with stack := rest } rfl).trans (enterPending_keeps _))
      split
      · exact ((k _ (by rfl)).trans (discardPause_keeps _)).trans (weighOrClose_keeps _)
      · exact (k _ (by rfl)).trans (weighOrClose_keeps _)
  · exact weighOrClose_keeps s

theorem endHostLift_keeps (s : State) : Keeps s s.endHostLift :=
  (setSeq_keeps _ s (by exact id)).trans (endRecovery_keeps _)

theorem endLift_keeps (s : State) : Keeps s s.endLift := by
  unfold State.endLift
  split
  · exact endHoldLift_keeps s
  · exact weighOrClose_keeps s
  · exact endHostLift_keeps s
  · exact closeJob_keeps s
  · exact closeJob_keeps s

theorem endProgram_keeps (s : State) : Keeps s s.endProgram :=
  Keeps.ite (closeJob_keeps s) ((updateFlags_keeps _ s).trans (beginLift_keeps _ _ _))

theorem completeSegment_keeps (g : Segment) (i : Nat) (s : State) : Keeps s (s.completeSegment g i) := by
  unfold State.completeSegment
  have k := setSeq_keeps { s.seq with loops := (endTest i s.seq.loops).1 } s
    fun h => Nat.le_trans (endTest_length i s.seq.loops) h
  dsimp only
  split
  · exact k.trans (gotoSegment_keeps _ _)
  · split
    · exact k.trans (endProgram_keeps _)
    · exact k.trans (gotoSegment_keeps _ _)

/-! ## Reactions -/

theorem reaskShift_keeps {sp : Span} {s t : State} (h : s.reaskShift sp = some t) : Keeps s t := by
  unfold State.reaskShift at h
  split at h
  · split at h
    · cases h; exact askShift_keeps _ _ s
    · cases h
  · cases h

theorem advanceSegment_keeps {g : Segment} {i : Nat} {s t : State} (h : s.advanceSegment g i = some t) :
    Keeps s t := by
  unfold State.advanceSegment at h
  split at h
  · exact reaskShift_keeps h
  · split at h
    · split at h
      · cases h; exact startSegment_keeps _ s
      · cases h; exact completeSegment_keeps _ _ s
      · split at h
        · cases h; exact setPhase_keeps _ s
        · cases h
      · split at h
        · cases h
        · cases h; exact startTiming_keeps _ s
      · cases h; exact issueTravel_keeps _ s
      · split at h
        · cases h; exact endShift_keeps _ s
        · cases h
      · cases h
    · cases h
  · cases h

theorem advanceSequencer_keeps {s t : State} (h : s.advanceSequencer = some t) : Keeps s t := by
  unfold State.advanceSequencer at h
  split at h
  · split at h
    · exact advanceSegment_keeps h
    · cases h
  · unfold State.advanceLift at h
    split at h
    · cases h; exact endLift_keeps s
    · cases h
  · unfold State.advanceWeighing at h
    split at h
    · cases h; exact Keeps.ite ((startTiming_keeps _ s).trans (suspendTimer_keeps _)) (startTiming_keeps _ s)
    · cases h
  · cases h
  · cases h

/-- A reaction is one of these nine. -/
theorem advanceOnce_cases {s t : State} (h : s.advanceOnce = some t) :
    s.advanceSequencer = some t ∨ s.promote = some t ∨ s.startJob = some t ∨ s.retest = some t ∨ s.admitHead = some t ∨
      s.placeCheckpoint = some t ∨ s.beginAreaWrite = some t ∨ s.beginErase = some t ∨ s.beginCommit = some t := by
  have key : ∀ (a : Option State) (b : Unit → Option State), orNext a b = some t → a = some t ∨ b () = some t := by
    intro a b e
    cases a with
    | none => exact .inr e
    | some x => exact .inl e
  unfold State.advanceOnce at h
  rcases key _ _ h with h | h
  · exact .inl h
  rcases key _ _ h with h | h
  · exact .inr (.inl h)
  rcases key _ _ h with h | h
  · exact .inr (.inr (.inl h))
  rcases key _ _ h with h | h
  · exact .inr (.inr (.inr (.inl h)))
  rcases key _ _ h with h | h
  · exact .inr (.inr (.inr (.inr (.inl h))))
  rcases key _ _ h with h | h
  · exact .inr (.inr (.inr (.inr (.inr (.inl h)))))
  rcases key _ _ h with h | h
  · exact .inr (.inr (.inr (.inr (.inr (.inr (.inl h))))))
  rcases key _ _ h with h | h
  · exact .inr (.inr (.inr (.inr (.inr (.inr (.inr (.inl h)))))))
  · exact .inr (.inr (.inr (.inr (.inr (.inr (.inr (.inr h)))))))

/-- Nothing is left to react exactly when none of the nine can act. -/
theorem advanceOnce_none {s : State} : s.advanceOnce = none ↔
    s.advanceSequencer = none ∧ s.promote = none ∧ s.startJob = none ∧ s.retest = none ∧ s.admitHead = none ∧
      s.placeCheckpoint = none ∧ s.beginAreaWrite = none ∧ s.beginErase = none ∧ s.beginCommit = none := by
  have key : ∀ (a : Option State) (b : Unit → Option State), orNext a b = none ↔ a = none ∧ b () = none := by
    intro a b; cases a <;> simp [orNext]
  unfold State.advanceOnce
  simp only [key]

theorem advanceOnce_keeps {s t : State} (h : s.advanceOnce = some t) : Keeps s t := by
  rcases advanceOnce_cases h with h | h | h | h | h | h | h | h | h
  · exact advanceSequencer_keeps h
  · exact promote_keeps h
  · exact startJob_keeps h
  · exact retest_keeps h
  · exact admit_keeps h
  · exact placeCheckpoint_keeps h
  · exact beginAreaWrite_keeps h
  · exact beginErase_keeps h
  · exact beginCommit_keeps h

/-- What every reaction keeps, the reactions of an event keep. -/
theorem settle_induction {P : State → Prop} (h : ∀ s t, P s → s.advanceOnce = some t → P t) (s : State) (hs : P s) :
    P s.settle := by
  have key : ∀ (n : Nat) (u : State), P u → P (State.settleFor n u) := by
    intro n
    induction n with
    | zero => intro u hu; exact hu
    | succ n ih =>
        intro u hu
        unfold State.settleFor
        split
        · rename_i t e; exact ih t (h u t hu e)
        · exact hu
  exact key settleBound s hs

theorem settleFor_none {s : State} (h : s.advanceOnce = none) : ∀ n, State.settleFor n s = s
  | 0 => rfl
  | n + 1 => by unfold State.settleFor; rw [h]

/-- A settled state settles to itself. -/
theorem settle_of_settled {s : State} (h : s.Settled) : s.settle = s := settleFor_none h settleBound

/-- One reaction, and the rest. -/
theorem settleFor_some {s t : State} (h : s.advanceOnce = some t) (n : Nat) :
    State.settleFor (n + 1) s = State.settleFor n t := by
  conv => lhs; unfold State.settleFor
  rw [h]

theorem settle_keeps (s : State) : Keeps s s.settle :=
  settle_induction (P := Keeps s) (fun _ _ h e => h.trans (advanceOnce_keeps e)) s (Keeps.refl s)

/-- A served drive link has nothing to send. -/
theorem serveDrives_of_served {s : State} (h : s.Served) : s.serveDrives = s := by
  unfold State.serveDrives
  rcases h with h | ⟨a, b, c⟩
  · rw [if_pos h]
  · split
    · rfl
    · have key : ∀ l : List Channel, s.firstWaiting l = none := by
        intro l
        induction l with
        | nil => rfl
        | cons ch rest ih =>
            unfold State.firstWaiting
            have : (s.channel ch).waiting = none := by cases ch <;> assumption
            rw [this]; exact ih
      rw [key]

/-- A still state finishes as it is. -/
theorem finish_of_still {s : State} (h : s.Still) : s.finish = s := by
  unfold State.finish
  rw [settle_of_settled h.1, serveDrives_of_served h.2.1]
  unfold State.endRetest
  rw [← h.2.2]

theorem endRetest_keeps (s : State) : Keeps s s.endRetest := Keeps.of_key rfl rfl

theorem finish_keeps (s : State) : Keeps s s.finish :=
  ((settle_keeps s).trans (serveDrives_keeps _)).trans (endRetest_keeps _)

end Sys2Proof.Machine
end

