-- ==== Sys2Proof/Laws/Commands.lean ====
section
/-! SUPPORT. What the frames of the commands do once their premises are met: a request that the port takes, a frame the
Roster lets go on, a timer that has run out. Cited in place of unfolding them. -/

set_option Elab.async false

namespace Sys2Proof.Machine

/-! ## Requests -/

theorem isOn_iff (s : State) : s.isOn = true ↔ s.roster.state ≠ .offline := by
  simp [State.isOn]

theorem isOn_false_iff (s : State) : s.isOn = false ↔ s.roster.state = .offline := by
  simp [State.isOn]

theorem joined_iff (s : State) : s.joined = true ↔ s.roster.state = .listening ∨ s.roster.state = .active := by
  simp [State.joined]

/-- A station that takes frames is on. -/
theorem isOn_of_joined {s : State} (h : s.joined = true) : s.isOn = true := by
  rw [joined_iff] at h; rw [isOn_iff]; rcases h with h | h <;> rw [h] <;> decide

/-- A request taken by a free port is worked, and the event ends. -/
theorem request_of_listens {s : State} (h : s.Listens) (i : Instr) (work : State → State) :
    s.request i work = .next (work (s.working i)).finish := by
  unfold State.request
  rw [h.1, h.2]; rfl

/-- A request that meets a busy port is ignored and counted. -/
theorem request_of_busy {s : State} (on : s.isOn = true) (b : s.portBusy = true) (i : Instr) (work : State → State) :
    s.request i work = .next s.ignoreRequest := by
  unfold State.request
  rw [on, b]; rfl

/-- In OFFLINE a request is nothing. -/
theorem request_of_offline {s : State} (off : s.isOn = false) (i : Instr) (work : State → State) :
    s.request i work = .next s := by
  unfold State.request
  rw [off]; rfl

/-- A request answers in every state. -/
theorem request_cases (s : State) (i : Instr) (work : State → State) :
    s.request i work = .next s ∨ s.request i work = .next s.ignoreRequest ∨
      (s.Listens ∧ s.request i work = .next (work (s.working i)).finish) := by
  cases on : s.isOn with
  | false => exact .inl (request_of_offline on i work)
  | true =>
      cases b : s.portBusy with
      | true => exact .inr (.inl (request_of_busy on b i work))
      | false => exact .inr (.inr ⟨⟨on, b⟩, request_of_listens ⟨on, b⟩ i work⟩)

/-- The code that a request in progress is answered with. -/
theorem working_portCode (s : State) (i : Instr) : (s.working i).portCode = requestCode i := rfl

/-! ## Frames -/

/-- The Roster's test of a frame that it lets go on. -/
theorem rosterTest_of_letsGo {s : State} {f : Frame} (h : s.LetsGo f) : s.rosterTest f = (s.heard f, true) := by
  unfold State.rosterTest
  have h1 : ¬ f.origin = s.own := h.foreign
  have h2 : (f.payload.identity?.any fun id => id.digest != s.roster.digest) = false := by
    cases e : f.payload.identity? with
    | none => rfl
    | some id => simp [h.digest id (by rw [e]; rfl)]
  have h3 : (f.payload.identity?.any fun id =>
      s.roster.peers[f.origin].live && s.roster.peers[f.origin].uniqueId != some id.uniqueId) = false := by
    cases e : f.payload.identity? with
    | none => rfl
    | some id =>
        cases l : s.roster.peers[f.origin].live with
        | false => simp
        | true => have := h.genuine l id (by rw [e]; rfl); simp at this; simp [this]
  have h4 : (s.roster.peers[f.origin].excluded && f.payload.identity?.isNone) = false := by
    cases x : s.roster.peers[f.origin].excluded with
    | false => simp
    | true =>
        have := h.included x
        cases e : f.payload.identity? with
        | none => exact absurd e this
        | some id => simp
  dsimp only
  rw [if_neg h1, h2, h3, h4]
  rfl

/-- A dispatched frame that the Roster lets go on reaches its blocks, its buffer becomes FREE, and the event ends. -/
theorem dispatch_of_hears {s : State} {i : BufferId} {f : Frame} (h : s.Hears i f) {k : FrameKind}
    (hk : f.payload.kind = k) (take : Frame → State → State) :
    s.dispatch k take = ((take f (s.heard f)).freeRx i).finish := by
  unfold State.dispatch State.deliver
  rw [h.oldest]
  dsimp only
  rw [h.joined, hk, rosterTest_of_letsGo h.goes]
  simp

/-- A dispatched frame that does not go on ends with the Roster's own effect. -/
theorem dispatch_of_stopped {s t : State} {i : BufferId} {f : Frame} (hj : s.joined = true)
    (ho : s.link.oldest = some (i, f)) (ht : s.rosterTest f = (t, false)) {k : FrameKind} (hk : f.payload.kind = k)
    (take : Frame → State → State) : s.dispatch k take = (t.freeRx i).finish := by
  unfold State.dispatch State.deliver
  rw [ho]
  dsimp only
  rw [hj, hk, ht]
  simp

/-- A dispatch changes nothing, or gives the oldest frame to the Roster and its blocks. -/
theorem dispatch_cases (s : State) (k : FrameKind) (take : Frame → State → State) :
    s.dispatch k take = s ∨ ∃ i f, s.link.oldest = some (i, f) ∧ s.joined = true ∧ f.payload.kind = k ∧
      s.dispatch k take = ((s.deliver f take).freeRx i).finish := by
  unfold State.dispatch
  split
  · rename_i i f h
    split
    · rename_i c
      simp only [Bool.and_eq_true, beq_iff_eq] at c
      exact .inr ⟨i, f, h, c.1, c.2, rfl⟩
    · exact .inl rfl
  · exact .inl rfl

/-! ## Timers -/

/-- A timer that has run out leaves the clock alone. -/
theorem reachExpiry_of_due {s : State} {t : Timer} (h : t.due s.time.clock = true) : s.reachExpiry t = s := by
  unfold State.reachExpiry State.now; rw [if_pos h]

/-- A running timer that has run out has its effect. -/
theorem onExpiry_of_due {s : State} {o : Option Timer} {t : Timer} (ho : o = some t)
    (h : t.due s.time.clock = true) (effect : State → State) : s.onExpiry o effect = effect s := by
  unfold State.onExpiry; rw [ho]; dsimp only; rw [reachExpiry_of_due h]

/-- An expiry of a timer changes nothing, or has its effect at the timer's end. -/
theorem onExpiry_cases (s : State) (o : Option Timer) (effect : State → State) :
    s.onExpiry o effect = s ∨ ∃ t, o = some t ∧ s.onExpiry o effect = effect (s.reachExpiry t) := by
  unfold State.onExpiry
  cases o with
  | none => exact .inl rfl
  | some t => exact .inr ⟨t, rfl, rfl⟩

end Sys2Proof.Machine
end

