-- ==== Sys2Proof/Laws/KeepsCommands.lean ====
section
/-! SUPPORT. What every command keeps: soundness, the array's form and the queue; and, but for the commands whose effect
it is to change them, the station state and the programs. -/

set_option Elab.async false

namespace Sys2Proof.Machine

/-- `t` has what every command keeps of `s`. -/
structure Runs (s t : State) : Prop where
  sound : s.Sound → t.Sound
  formed : s.Formed → t.Formed
  pending : t.pending = s.pending

/-- `t` has, besides, the station state and the programs of `s`. -/
structure Carries (s t : State) : Prop extends Runs s t where
  station : t.roster.state = s.roster.state
  programs : t.programs = s.programs

theorem Runs.refl (s : State) : Runs s s := ⟨id, id, rfl⟩

theorem Runs.trans {s t u : State} (h : Runs s t) (k : Runs t u) : Runs s u :=
  ⟨fun x => k.sound (h.sound x), fun x => k.formed (h.formed x), k.pending.trans h.pending⟩

theorem Carries.refl (s : State) : Carries s s := ⟨Runs.refl s, rfl, rfl⟩

theorem Carries.trans {s t u : State} (h : Carries s t) (k : Carries t u) : Carries s u :=
  ⟨h.toRuns.trans k.toRuns, k.station.trans h.station, k.programs.trans h.programs⟩

theorem Carries.ite {c : Prop} [Decidable c] {s a b : State} (ha : Carries s a) (hb : Carries s b) :
    Carries s (if c then a else b) := by split <;> assumption

/-- What an operation below the commands keeps, it carries. -/
theorem Keeps.carries {s t : State} (h : Keeps s t) : Carries s t := by
  have f := h.fixed
  simp only [State.fixed, Prod.mk.injEq] at f
  refine ⟨⟨h.sound, h.formed, f.2.2.2.2.1⟩, ?_, f.2.1⟩
  have := congrArg Roster.state f.2.2.2.2.2.1
  exact this

/-- A change of nothing that soundness and the array's form read. -/
theorem Runs.of_key {s t : State} (k : t.soundKey = s.soundKey) (p : t.pending = s.pending)
    (g : s.Formed → t.Formed := by exact fun x => ⟨x.pages, x.writePos, x.due, x.blocked, x.erasing⟩) : Runs s t :=
  ⟨State.Sound.of_key k, g, p⟩

theorem Carries.of_key {s t : State} (k : t.soundKey = s.soundKey) (p : t.pending = s.pending)
    (st : t.roster.state = s.roster.state) (pr : t.programs = s.programs)
    (g : s.Formed → t.Formed := by exact fun x => ⟨x.pages, x.writePos, x.due, x.blocked, x.erasing⟩) :
    Carries s t := ⟨Runs.of_key k p g, st, pr⟩

/-- A change that shortens the posting queue, or the list of held frames, and changes nothing else that soundness
reads. -/
theorem Carries.of_link {s : State} (l : Link) (h : l.queue.length ≤ s.link.queue.length)
    (ha : l.rxA = s.link.rxA ∨ l.rxA = none := by exact .inl rfl)
    (hb : l.rxB = s.link.rxB ∨ l.rxB = none := by exact .inl rfl) : Carries s { s with link := l } := by
  refine ⟨⟨fun x => ⟨x.tied, x.stale, Nat.le_trans h x.queue, x.rising, x.contexts, x.loops, x.jobs, x.queued,
    x.retained, x.holding, ?_⟩, fun x => ⟨x.pages, x.writePos, x.due, x.blocked, x.erasing⟩, rfl⟩, rfl, rfl⟩
  have b := x.bounded
  refine ⟨b.limited, b.unique, b.owned, b.unclaimed, ?_, ?_⟩
  · show ∀ h ∈ l.rxA, _
    rcases ha with e | e <;> rw [e]
    · exact b.listsA
    · exact of_none
  · show ∀ h ∈ l.rxB, _
    rcases hb with e | e <;> rw [e]
    · exact b.listsB
    · exact of_none

theorem finish_carries (s : State) : Carries s s.finish := (finish_keeps s).carries

/-! ## Roster -/

theorem setPeer_carries (r : Rank) (p : Peer) (s : State) : Carries s (s.setPeer r p) :=
  Carries.of_key rfl rfl rfl rfl

theorem hear_carries (r : Rank) (p : Payload) (s : State) : Carries s (s.hear r p) :=
  Carries.ite ((setPeer_carries _ _ s).trans (raise_keeps _ (f := .peerChange) (by decide)).carries)
    (setPeer_carries _ _ s)

theorem freeRx_carries (i : BufferId) (s : State) : Carries s (s.freeRx i) := by
  cases i
  · exact Carries.of_link _ (Nat.le_refl _) (.inr rfl)
  · exact Carries.of_link _ (Nat.le_refl _) (.inl rfl) (.inr rfl)

theorem depart_carries (r : Rank) (s : State) : Carries s (s.depart r) :=
  (((setPeer_carries _ _ s).trans (raise_keeps _ (f := .peerChange) (by decide)).carries).trans
    (departClaims_keeps r _).carries).trans (departAccount_keeps r _).carries

theorem exclude_carries (r : Rank) (s : State) : Carries s (s.exclude r) := by
  unfold State.exclude
  have h : Carries s (if s.roster.peers[r].excluded then s
      else (s.setPeer r { s.roster.peers[r] with excluded := true }).raise .peerChange) :=
    Carries.ite (Carries.refl s)
      ((setPeer_carries _ _ s).trans (raise_keeps _ (f := .peerChange) (by decide)).carries)
  exact Carries.ite (h.trans (depart_carries r _)) h

/-- A station that knows of no claim and holds no frame keeps every limit. -/
theorem bounded_empty (st : StationState) (own : Rank) : ClaimsBounded st own [] none none where
  limited := fun _ => Nat.zero_le _
  unique := List.nodup_nil
  owned := fun _ _ h => by cases h
  unclaimed := fun _ => rfl
  listsA := of_none
  listsB := of_none

/-- A link that turns ISOLATED keeps no more than it held. -/
theorem Link.isolate_queue (l : Link) : l.isolate.queue.length ≤ l.queue.length := by
  unfold Link.isolate
  dsimp only
  split
  · rw [List.length_take]; omega
  · simp

theorem enterIsolated_runs (why : IsolationReason) (s : State) : Runs s (s.enterIsolated why) := by
  unfold State.enterIsolated
  have h : Carries s (if s.roster.anyLive then s.raise .peerChange else s) :=
    Carries.ite (raise_keeps _ (f := .peerChange) (by decide)).carries (Carries.refl s)
  refine h.toRuns.trans ?_
  generalize (if s.roster.anyLive then s.raise .peerChange else s) = t
  refine ⟨fun x => ⟨rfl, rfl, ?_, x.rising, x.contexts, x.loops, x.jobs, x.queued, x.retained, x.holding,
    bounded_empty _ _⟩, fun x => ⟨x.pages, x.writePos, x.due, x.blocked, x.erasing⟩, rfl⟩
  exact Nat.le_trans (Link.isolate_queue _) x.queue

theorem enterIsolated_state (why : IsolationReason) (s : State) :
    (s.enterIsolated why).roster.state = .isolated ∧ (s.enterIsolated why).programs = s.programs := by
  unfold State.enterIsolated
  dsimp only
  split <;> exact ⟨rfl, rfl⟩

/-- The Roster changed where no claim is known: the limits of the table hold for any station. -/
theorem setRoster_runs (r : Roster) (s : State) (h : s.Sound → s.claims.table = []) :
    Runs s { s with roster := r } := by
  refine ⟨fun x => ⟨x.tied, x.stale, x.queue, x.rising, x.contexts, x.loops, x.jobs, x.queued, x.retained, x.holding,
    ?_⟩, fun x => ⟨x.pages, x.writePos, x.due, x.blocked, x.erasing⟩, rfl⟩
  show ClaimsBounded _ _ (identities s.claims.table) _ _
  rw [h x]
  exact ⟨fun _ => Nat.zero_le _, List.nodup_nil, fun _ _ k => (List.not_mem_nil k).elim, fun _ => rfl,
    x.bounded.listsA, x.bounded.listsB⟩

/-- A station that is OFFLINE or LOADING knows of no claim. -/
theorem table_empty {s : State} (x : s.Sound) (h : s.roster.state = .offline ∨ s.roster.state = .loading) :
    s.claims.table = [] := List.map_eq_nil_iff.mp (x.bounded.unclaimed h)

theorem enterListening_runs (s : State) (h : s.roster.state = .loading) : Runs s s.enterListening := by
  unfold State.enterListening
  refine Runs.trans ?_ (((post_keeps _ _ _).trans (post_keeps _ _ _)).trans (post_keeps _ _ _)).carries.toRuns
  exact setRoster_runs _ s fun x => table_empty x (.inr h)

theorem post_stays (d : Dest) (p : Payload) (s : State) :
    (s.post d p).roster = s.roster ∧ (s.post d p).programs = s.programs := by
  unfold State.post
  dsimp only
  split
  · split
    · split <;> exact ⟨rfl, rfl⟩
    · exact ⟨rfl, rfl⟩
  · exact ⟨rfl, rfl⟩

theorem enterListening_state (s : State) :
    s.enterListening.roster.state = .listening ∧ s.enterListening.programs = s.programs := by
  unfold State.enterListening State.postBeacon State.postJoin State.postState
  dsimp only
  refine ⟨?_, ?_⟩
  · rw [(post_stays _ _ _).1, (post_stays _ _ _).1, (post_stays _ _ _).1]; rfl
  · rw [(post_stays _ _ _).2, (post_stays _ _ _).2, (post_stays _ _ _).2]; rfl

/-- A clash or a mismatch: the station as it was, or LISTENING left for ISOLATED. -/
def Isolates (s t : State) : Prop :=
  Runs s t ∧ t.programs = s.programs ∧
    (t.roster.state = s.roster.state ∨ s.roster.state = .listening ∧ t.roster.state = .isolated)

theorem Carries.isolates {s t : State} (h : Carries s t) : Isolates s t := ⟨h.toRuns, h.programs, .inl h.station⟩

theorem Isolates.then {s t u : State} (h : Isolates s t) (k : Carries t u) : Isolates s u :=
  ⟨h.1.trans k.toRuns, k.programs.trans h.2.1, by rw [k.station]; exact h.2.2⟩

theorem enterIsolated_isolates (why : IsolationReason) (s : State) (l : s.roster.state = .listening) :
    Isolates s (s.enterIsolated why) :=
  ⟨enterIsolated_runs why s, (enterIsolated_state why s).2, .inr ⟨l, (enterIsolated_state why s).1⟩⟩

theorem clash_isolates (s : State) : Isolates s s.clash := by
  unfold State.clash
  split
  · rename_i l; exact enterIsolated_isolates _ s l
  · split
    · exact (Carries.refl s).isolates
    · have h : Carries s { s with roster := { s.roster with clashed := true } } := Carries.of_key rfl rfl rfl rfl
      exact (h.trans (raise_keeps _ (f := .peerChange) (by decide)).carries).isolates

theorem mismatch_isolates (r : Rank) (s : State) : Isolates s (s.mismatch r) := by
  unfold State.mismatch
  split
  · rename_i l; exact enterIsolated_isolates _ s l
  · exact (exclude_carries r s).isolates

theorem takePayload_keeps (f : Frame) {s : State} (ho : f.origin ≠ s.own) (hj : s.joined = true)
    (hl : s.Sound → f.payload.listed.length ≤ 2) : Keeps s (takePayload f s) := by
  unfold takePayload
  split <;> rename_i e
  · exact takeVerdict_keeps _ _ _ (fun u => tellRefused_keeps _ u) s
  · exact takeRelease_keeps _ _ s
  · exact Keeps.ite (Keeps.refl s) (vacateRank_keeps _ s)
  · exact takeClaim_keeps _ ho hj
  · exact takeEntry_keeps _ s
  · exact takeGap_keeps _ _ s
  · exact takeGone_keeps _ _ s
  · exact takeFetch_keeps _ _ s
  · exact takeSnapshot_keeps _ _ _ s
  · exact (censusRepair_keeps _ _ s).trans (accountBeacon_keeps _ _ _)
  · exact post_keeps _ _ s
  · rw [e] at hl; exact takeState_keeps _ _ ho hj hl

theorem rosterTest_cases (s : State) (f : Frame) :
    (Isolates s (s.rosterTest f).1 ∧ (s.rosterTest f).2 = false) ∨
      (s.rosterTest f = (s.heard f, true) ∧ f.origin ≠ s.own) := by
  unfold State.rosterTest
  dsimp only
  split
  · exact .inl ⟨clash_isolates s, rfl⟩
  · rename_i ho
    split
    · exact .inl ⟨mismatch_isolates _ s, rfl⟩
    · split
      · exact .inl ⟨(Carries.refl s).isolates, rfl⟩
      · split
        · exact .inl ⟨(Carries.refl s).isolates, rfl⟩
        · exact .inr ⟨rfl, ho⟩

/-- The oldest held frame lists no more claims than the limit. -/
theorem oldest_lists {s : State} (x : s.Sound) {i : BufferId} {f : Frame} (h : s.link.oldest = some (i, f)) :
    f.payload.listed.length ≤ 2 := by
  have a := x.bounded.listsA
  have b := x.bounded.listsB
  unfold Link.oldest at h
  split at h
  · rename_i p q ea eb
    split at h <;> cases h
    · exact b _ eb
    · exact a _ ea
  · rename_i p ea _; cases h; exact a _ ea
  · rename_i q _ eb; cases h; exact b _ eb
  · cases h

/-- Hearing a frame touches neither the station's rank nor the link. -/
theorem heard_same (s : State) (f : Frame) :
    (s.heard f).own = s.own ∧ (s.heard f).joined = s.joined ∧ (s.heard f).link = s.link := by
  unfold State.heard State.hear
  dsimp only
  split <;> exact ⟨rfl, rfl, rfl⟩

/-- A dispatched frame keeps what every command keeps; it can end LISTENING in ISOLATED. -/
theorem dispatch_isolates (k : FrameKind) (s : State) : Isolates s (s.dispatch k takePayload) := by
  rcases dispatch_cases s k takePayload with h | ⟨i, f, old, hj, _, h⟩
  · rw [h]; exact (Carries.refl s).isolates
  · rw [h]
    refine Isolates.then ?_ ((freeRx_carries i _).trans (finish_carries _))
    unfold State.deliver
    rcases rosterTest_cases s f with ⟨a, b⟩ | ⟨a, b⟩
    · simp only [b]; exact a
    · obtain ⟨e1, e2, e3⟩ := heard_same s f
      rw [a]
      exact ((hear_carries _ _ s).trans (takePayload_keeps f (by rw [e1]; exact b) (e2.trans hj)
        fun x => oldest_lists x (e3 ▸ old)).carries).isolates

/-! ## Requests and timers -/

theorem answer_carries (c : Byte) (x : Status) (p : AnswerPayload) (s : State) : Carries s (s.answer c x p) :=
  Carries.of_key rfl rfl rfl rfl

/-- Each of the short answers. -/
theorem reply_carries (x : Status) (p : AnswerPayload) (s : State) : Carries s (s.reply x p) := answer_carries _ x p s

theorem ok_carries (p : AnswerPayload) (s : State) : Carries s (s.ok p) := reply_carries _ _ s
theorem busy_carries (s : State) : Carries s s.busy := reply_carries _ _ s
theorem invalid_carries (s : State) : Carries s s.invalid := reply_carries _ _ s
theorem refuse_carries (r : RefusedReason) (s : State) : Carries s (s.refuse r) := reply_carries _ _ s
theorem shielded_carries (s : State) : Carries s s.shielded := reply_carries _ _ s
theorem notActive_carries (s : State) : Carries s s.notActive := reply_carries _ _ s

theorem working_carries (i : Instr) (s : State) : Carries s (s.working i) := Carries.of_key rfl rfl rfl rfl

/-- A request carries what its work carries. -/
theorem request_carries {i : Instr} {work : State → State} (h : ∀ s, Carries s (work s)) (s : State) :
    ∃ t, s.request i work = .next t ∧ Carries s t := by
  rcases request_cases s i work with e | e | ⟨_, e⟩
  · exact ⟨_, e, Carries.refl s⟩
  · exact ⟨_, e, Carries.of_key rfl rfl rfl rfl⟩
  · exact ⟨_, e, ((working_carries i s).trans (h _)).trans (finish_carries _)⟩

theorem onExpiry_carries {effect : State → State} (h : ∀ s, Carries s (effect s)) (o : Option Timer) (s : State) :
    Carries s (s.onExpiry o effect) := by
  rcases onExpiry_cases s o effect with e | ⟨t, _, e⟩
  · rw [e]; exact Carries.refl s
  · rw [e]; exact (reachExpiry_keeps t s).carries.trans (h _)

/-! ## The work of the requests -/

theorem takeFlags_carries (s : State) : Carries s s.takeFlags := Carries.of_key rfl rfl rfl rfl
theorem markRead_carries (s : State) : Carries s s.markRead := Carries.of_key rfl rfl rfl rfl

/-- ACKNOWLEDGE leaves STALE_PRESENT set while a STALE entry stands. -/
theorem acknowledge_carries (named : FlagSet) (s : State) : Carries s (s.acknowledge named) := by
  unfold State.acknowledge
  refine Carries.trans ?_ (ok_carries _ _)
  refine ⟨⟨fun x => ⟨x.tied, ?_, ?_, x.rising, x.contexts, x.loops, x.jobs, x.queued, x.retained, x.holding, ?_⟩,
    fun x => ⟨x.pages, x.writePos, x.due, x.blocked, x.erasing⟩, rfl⟩, rfl, rfl⟩
  · have := x.stale
    show (s.port.flags.without (s.clearable named)).stalePresent = s.claims.table.any ClaimEntry.isStale
    show (s.port.flags.stalePresent && !((s.port.reported named).stalePresent && !s.claims.table.any ClaimEntry.isStale))
      = _
    rw [this]
    cases s.claims.table.any ClaimEntry.isStale <;> simp
  · show (if _ then s.link.clearCounters else s.link).queue.length ≤ 8
    split <;> exact x.queue
  · show ClaimsBounded _ _ _ (if _ then s.link.clearCounters else s.link).rxA
      (if _ then s.link.clearCounters else s.link).rxB
    split <;> exact x.bounded

theorem readLog_carries (a b : Nat) (s : State) : Carries s (s.readLog a b) :=
  Carries.ite (invalid_carries s) (Carries.ite (busy_carries s) (ok_carries _ s))

theorem appendJob_carries (j : Job) (hj : j.state = .queued) (s : State) (h : s.jobs.list.length < 4) :
    Carries s { s with jobs := { s.jobs with list := s.jobs.list ++ [j] } } := by
  refine ⟨⟨fun x => ⟨x.tied, x.stale, x.queue, x.rising, x.contexts, x.loops, ?_, ?_, x.retained, x.holding, x.bounded⟩,
    fun x => ⟨x.pages, x.writePos, x.due, x.blocked, x.erasing⟩, rfl⟩, rfl, rfl⟩
  · show (s.jobs.list ++ [j]).length ≤ 4
    rw [List.length_append]; simp; omega
  · show ∀ k ∈ (s.jobs.list ++ [j]).tail, k.state = .queued
    have := x.queued
    revert this
    cases s.jobs.list with
    | nil => intro _ k hk; simp at hk
    | cons a rest =>
        intro h k hk
        rw [List.cons_append, List.tail_cons] at hk
        rcases List.mem_append.mp hk with m | m
        · exact h k m
        · rw [List.mem_singleton.mp m]; exact hj

theorem submit_carries (tag : BitVec 16) (n : Nat) (sp : Span) (d l : Nat) (s : State) :
    Carries s (s.submit tag n sp d l) := by
  unfold State.submit
  refine Carries.ite (notActive_carries s) (Carries.ite (invalid_carries s) (Carries.ite (refuse_carries _ s)
    (Carries.ite (refuse_carries _ s) (Carries.ite (refuse_carries _ s) ?_))))
  split
  · exact busy_carries s
  · rename_i h; exact (appendJob_carries _ rfl s (by omega)).trans (ok_carries _ _)

theorem cancel_carries (j : Job) (s : State) : Carries s (s.cancel j) := by
  unfold State.cancel
  split
  · exact (endEarly_keeps _ _ _ s).carries.trans (ok_carries _ _)
  · exact (endEarly_keeps _ _ _ s).carries.trans (ok_carries _ _)
  · exact (endEarly_keeps _ _ _ s).carries.trans (ok_carries _ _)
  · split
    · exact ((endClaim_keeps _ s).trans (endEarly_keeps _ _ _ _)).carries.trans (ok_carries _ _)
    · exact (endEarly_keeps _ _ _ s).carries.trans (ok_carries _ _)
  · exact Carries.ite (ok_carries _ s)
      (((updateHead_keeps _ s).trans (testCancel_keeps _)).carries.trans (ok_carries _ _))
  · exact busy_carries s

theorem hostEntry_carries (k : EntryKind) (a : Int) (b : Bool) (s : State) : Carries s (s.hostEntry k a b) := by
  unfold State.hostEntry
  refine Carries.ite (notActive_carries s) (Carries.ite (invalid_carries s) (Carries.ite (busy_carries s)
    (Carries.ite (busy_carries s) ?_)))
  split
  · exact busy_carries s
  · exact ((originate_keeps _ _ _ s).trans (placeReady_keeps _ _ _)).carries.trans (ok_carries _ _)

theorem hostCheckpoint_carries (s : State) : Carries s s.hostCheckpoint := by
  unfold State.hostCheckpoint
  refine Carries.ite (notActive_carries s) (Carries.ite (busy_carries s) ?_)
  split
  · rename_i t h
    exact ((askCheckpoint_keeps s).trans (placeCheckpoint_keeps h)).carries.trans (ok_carries _ _)
  · exact (askCheckpoint_keeps s).carries.trans (ok_carries _ _)

theorem goOn_keeps (l : List HoldEntry) (c : SavedContext) (s : State) (h : c.loops.length ≤ 4) :
    Keeps s (s.goOn l c) := by
  unfold State.goOn
  split
  · exact restoreContext_keeps c s h
  · exact Keeps.ite (Keeps.refl s) (postLiftMoves_keeps s)

/-- The part of `Keeps` that no saved context can spoil. -/
theorem goOn_fixes (l : List HoldEntry) (c : SavedContext) (s : State) :
    (s.goOn l c).fixed = s.fixed ∧ (s.Formed → (s.goOn l c).Formed) := by
  have split_off : ∀ {t : State}, Keeps s t → t.fixed = s.fixed ∧ (s.Formed → t.Formed) := fun k => ⟨k.fixed, k.formed⟩
  unfold State.goOn
  split
  · unfold State.restoreContext
    split
    · have k : (s.takeContext c).fixed = s.fixed ∧ (s.Formed → (s.takeContext c).Formed) := by
        unfold State.takeContext
        split <;> exact ⟨rfl, fun x => ⟨x.pages, x.writePos, x.due, x.blocked, x.erasing⟩⟩
      dsimp only
      split
      · rename_i g _
        have r := resumeSegment_keeps g (s.takeContext c)
        exact ⟨r.fixed.trans k.1, fun x => r.formed (k.2 x)⟩
      · exact k
    · exact split_off (postLiftMoves_keeps s)
    · exact split_off (resumeTimer_keeps s)
    · exact split_off (Keeps.refl s)
    · exact split_off (Keeps.refl s)
  · exact split_off (Keeps.ite (Keeps.refl s) (postLiftMoves_keeps s))

/-- RESUME keeps a sound state sound: the context restored is one the stack held. -/
theorem resume_carries {e : HoldEntry} {rest : List HoldEntry} (s : State) (h : s.holds.stack = e :: rest) :
    Carries s (s.resume e rest) := by
  unfold State.resume
  have k := (popHold_keeps s h { s.holds with stack := rest, mask := s.holds.mask.addMask e.cls } rfl).trans
    (enterPending_keeps _)
  dsimp only
  split
  · exact (k.trans (carryOutCancel_keeps _)).carries
  split
  · exact (k.trans (freeEndLift_keeps _)).carries
  · have f := goOn_fixes rest e.context (State.enterPending
      ((s.setHolds { s.holds with stack := rest, mask := s.holds.mask.addMask e.cls }).raise .holdChange))
    have c := k.carries
    have w := f.1
    simp only [State.fixed, Prod.mk.injEq] at w
    refine ⟨⟨fun x => ?_, fun x => f.2 (c.formed x), w.2.2.2.2.1.trans c.pending⟩, ?_, w.2.1.trans c.programs⟩
    · exact (k.trans (goOn_keeps _ _ _ (x.contexts e (by rw [h]; exact List.mem_cons_self)))).sound x
    · exact (congrArg Roster.state w.2.2.2.2.2.1).trans c.station

theorem hostResume_carries (s : State) : Carries s s.hostResume := by
  unfold State.hostResume
  split
  · exact refuse_carries _ s
  · rename_i h
    split
    · exact refuse_carries _ s
    · exact ((resume_carries s h).trans (settle_keeps _).carries).trans (ok_carries _ _)

theorem lineTaken_carries (s : State) : Carries s s.lineTaken := Carries.of_link _ (by dsimp only; split <;> simp)

theorem driveBreak_carries (s : State) : Carries s s.driveBreak :=
  (lineTaken_carries s).trans (Carries.of_link _ (Nat.le_refl _))

theorem liftClear_carries (s : State) : Carries s s.liftClear := by
  have q : ∀ u : State, Keeps u (u.setSeq { u.seq with
      activity := .lift, liftFor := some .host, hostLift := .lifting }) := fun u => setSeq_keeps _ u (by exact id)
  have k : Keeps s s.beginHostLift := ((clearMarks_keeps s).trans (q _)).trans (postLiftMoves_keeps _)
  exact Carries.ite (notActive_carries s) (Carries.ite (refuse_carries _ s) (Carries.ite (busy_carries s)
    (Carries.ite (refuse_carries _ s) (Carries.ite (busy_carries s) (k.carries.trans (ok_carries _ _))))))

theorem vacate_carries (n : Nat) (s : State) : Carries s (s.vacate n) := by
  unfold State.vacate
  refine Carries.ite (notActive_carries s) ?_
  split
  · exact invalid_carries s
  · exact Carries.ite (invalid_carries s)
      (((vacateRank_keeps _ s).trans (post_keeps _ _ _)).carries.trans (ok_carries _ _))

theorem askArea_carries (a : AreaTarget) (s : State) : Carries s (s.askArea a) := (setLog_keeps _ s).carries

theorem lock_carries (a b : Nat) (s : State) : Carries s (s.lock a b) :=
  Carries.ite (busy_carries s) (Carries.ite (invalid_carries s) (Carries.ite (invalid_carries s) (askArea_carries _ s)))

theorem unlock_carries (a b : Nat) (s : State) : Carries s (s.unlock a b) :=
  Carries.ite (shielded_carries s) (Carries.ite (busy_carries s)
    (Carries.ite (invalid_carries s) (askArea_carries _ s)))

theorem writeConfig_carries (b : List Byte) (s : State) : Carries s (s.writeConfig b) := by
  unfold State.writeConfig
  refine Carries.ite (shielded_carries s) (Carries.ite (busy_carries s) (Carries.ite (busy_carries s) ?_))
  split
  · exact reply_carries _ _ s
  · exact askArea_carries _ s

/-- LOAD_PROGRAM changes the programs, and nothing else that a command keeps. -/
theorem load_runs (n : Nat) (l : List RawSegment) (s : State) :
    Runs s (s.load n l) ∧ (s.load n l).roster.state = s.roster.state := by
  have k : ∀ {t : State}, Carries s t → Runs s t ∧ t.roster.state = s.roster.state := fun c => ⟨c.toRuns, c.station⟩
  unfold State.load
  split
  · split
    · exact k (invalid_carries s)
    · split
      · exact k (busy_carries s)
      · split
        · exact k (reply_carries _ _ s)
        · have r : ∀ q : ProgramStore, Runs s { s with programs := q } := fun q => Runs.of_key rfl rfl
          exact ⟨(r _).trans (ok_carries _ _).toRuns, rfl⟩
  · exact k (invalid_carries s)

/-! ## Array ends -/

theorem tearArea_carries (a : AreaTarget) (s : State) : Carries s (s.tearArea a) := by
  cases a <;> exact Carries.of_key rfl rfl rfl rfl

theorem endAreaWrite_carries (b : Bool) (s : State) : Carries s (s.endAreaWrite b) := by
  have w : Keeps s (s.setLog { s.log with op := .none, areaWrite := none }) :=
    setLog_keeps _ s fun k => ⟨k.pages, k.writePos, k.due, k.blocked, not_erasing nofun⟩
  unfold State.endAreaWrite
  split
  · refine Carries.ite ?_ ?_
    · unfold State.areaMatched
      split
      · rename_i flags _
        have a : ∀ u : State, Carries u { u with
            log := { u.log with locks := flags }, flash := { u.flash with locks := .of (lockBytes flags) } } :=
          fun u => Carries.of_key rfl rfl rfl rfl
        exact ((w.carries.trans (a _)).trans (answer_carries _ _ _ _)).trans (testBlocked_keeps _).carries
      · rename_i bytes _
        have a : ∀ u : State, Carries u { u with
            flash := { u.flash with config := .of bytes }, roster := { u.roster with pendingConfig := true } } :=
          fun u => Carries.of_key rfl rfl rfl rfl
        exact (w.carries.trans (a _)).trans (answer_carries _ _ _ _)
    · unfold State.areaFailed
      exact Carries.ite (setLog_keeps _ s).carries
        ((w.carries.trans (tearArea_carries _ _)).trans (answer_carries _ _ _ _))
  · exact Carries.refl s

/-! ## Whole commands -/

theorem claimWaitEnd_carries (j : Job) (s : State) : Carries s (s.claimWaitEnd j) := by
  have shift : ∀ u : State, Keeps u u.timeOutShift := fun u => (updateHead_keeps _ u).trans (closeJob_keeps _)
  unfold State.claimWaitEnd
  split
  · exact (endEarly_keeps _ _ _ s).carries
  · exact (endEarly_keeps _ _ _ s).carries
  · split
    · exact ((endClaim_keeps _ s).trans (endEarly_keeps _ _ _ _)).carries
    · exact (endEarly_keeps _ _ _ s).carries
  · split
    · exact (((endClaim_keeps _ s).trans (updateHead_keeps _ _)).trans (shift _)).carries
    · exact (shift s).carries
  · exact Carries.refl s

theorem contactEdge_carries (h : Hook) (b : Bool) (t : Time) (s : State) : Carries s (s.contactEdge h b t) := by
  have k : ∀ x : Timebase, Keeps s { s with time := x } := fun x => Keeps.of_key rfl rfl
  unfold State.contactEdge
  exact (Keeps.ite ((k _).trans (programFault_keeps _ _)) (k _)).carries

/-- The claims read from their bytes, as many as asked for. -/
theorem readClaims_length : ∀ (n : Nat) (p : List Byte) (l : List ListedClaim), readClaims n p = some l → l.length = n
  | 0, _, l, h => by cases h; rfl
  | n + 1, p, l, h => by
      unfold readClaims at h
      simp only [Option.bind_eq_bind, Option.bind_eq_some_iff] at h
      obtain ⟨c, _, cs, e, h⟩ := h
      cases h
      simp [readClaims_length n _ cs e]

/-- A frame that passes the tests lists no more claims than a STATE may (R206). -/
theorem testFrame_lists {w : WireFrame} {f : Frame} (h : testFrame w = .good f) : f.payload.listed.length ≤ 2 := by
  have read : ∀ (k : FrameKind) (p : List Byte) (q : Payload), lengthAllowed k p = true → readPayload k p = some q →
      q.listed.length ≤ 2 := by
    intro k p q hl hr
    cases k <;> simp only [readPayload, Option.bind_eq_bind, Option.bind_eq_some_iff, Option.map_eq_some_iff] at hr
    case state =>
      obtain ⟨id, _, a, _, cs, e, h⟩ := hr
      cases h
      simp only [lengthAllowed, Bool.and_eq_true, decide_eq_true_eq] at hl
      exact (readClaims_length _ _ cs e) ▸ hl.1
    all_goals first
      | (cases hr; exact Nat.zero_le _)
      | (obtain ⟨_, _, h⟩ := hr; cases h; exact Nat.zero_le _)
      | (obtain ⟨_, _, _, _, h⟩ := hr; cases h; exact Nat.zero_le _)
      | (obtain ⟨_, _, h⟩ := hr; split at h <;> cases h; exact Nat.zero_le _)
      | (obtain ⟨_, _, _, _, h⟩ := hr; split at h <;> cases h; exact Nat.zero_le _)
  unfold testFrame at h
  split at h
  · split at h
    · split at h
      · rename_i c
        simp only [Bool.and_eq_true] at c
        unfold testContents at h
        split at h
        · split at h
          · rename_i p e; cases h; exact read _ _ _ c.2 e
          · cases h
        · cases h
      · cases h
    · cases h
  · cases h

theorem frameEnd_carries (w : WireFrame) (s : State) : ∃ t, execFrameEnd w s = .next t ∧ Carries s t := by
  have taken := lineTaken_carries s
  have count : ∀ (c : LinkCounter) (u : State), Carries u (u.countLink c) := fun c u => (countLink_keeps c u).carries
  have hold : ∀ (u : State) (a b : Option HeldFrame),
      (∀ h ∈ a, u.link.rxA = some h ∨ h.frame.payload.listed.length ≤ 2) →
      (∀ h ∈ b, u.link.rxB = some h ∨ h.frame.payload.listed.length ≤ 2) →
      Carries u { u with link := { u.link with rxA := a, rxB := b } } := by
    intro u a b ka kb
    refine ⟨⟨fun x => ⟨x.tied, x.stale, x.queue, x.rising, x.contexts, x.loops, x.jobs, x.queued, x.retained, x.holding,
      ?_⟩, fun x => ⟨x.pages, x.writePos, x.due, x.blocked, x.erasing⟩, rfl⟩, rfl, rfl⟩
    have y := x.bounded
    exact ⟨y.limited, y.unique, y.owned, y.unclaimed,
      fun h m => (ka h m).elim (fun e => y.listsA h e) id, fun h m => (kb h m).elim (fun e => y.listsB h e) id⟩
  have store : ∀ (f : Frame) (u : State), f.payload.listed.length ≤ 2 → Carries u (u.storeFrame f) := by
    intro f u hf
    unfold State.storeFrame
    split
    · exact hold u _ _ (of_some (.inr hf)) fun h m => .inl m
    · exact hold u _ _ (of_some (.inr hf)) fun h m => .inl m
    · exact hold u _ _ (fun h m => .inl m) (of_some (.inr hf))
    · exact count _ u
  have accept : ∀ (f : Frame) (n : Bool) (u : State), f.payload.listed.length ≤ 2 → Carries u (u.acceptFrame f n) := by
    intro f n u hf
    unfold State.acceptFrame
    refine Carries.ite ?_ (Carries.refl u)
    have h : Carries u (if n then u.countLink .noise else u) := Carries.ite (count _ u) (Carries.refl u)
    exact Carries.ite (h.trans (store f _ hf)) h
  unfold execFrameEnd
  split
  · exact ⟨_, rfl, Carries.refl s⟩
  · split
    · exact ⟨_, rfl, taken⟩
    · refine ⟨_, rfl, taken.trans ?_⟩
      unfold State.receive
      split
      · exact count _ _
      · exact count _ _
      · rename_i f e; exact accept _ _ _ (testFrame_lists e)

/-- A reset puts a sound station in its place, whatever it finds. -/
theorem resetTo_runs (c : ResetCause) (s : State) : Runs s (s.resetTo c) := by
  refine ⟨fun _ => ?_, fun x => ?_, ?_⟩
  · refine ⟨?_, ?_, ?_, ?_, ?_, ?_, ?_, ?_, ?_, ?_, bounded_empty _ _⟩ <;> simp [State.resetTo, State.reset, HoldController.reset, JobControl.reset, ClaimUnit.reset,
      Account.reset, Sequencer.reset, ControllerPort.reset, reservations, Link.reset, FlagSet.none]
  · have w : pagesWf s.tearArray.flash.pages = true := by
      unfold State.tearArray
      split
      · exact x.pages
      · unfold State.tearPage
        split
        · rename_i p hp
          split
          · exact pagesWf_putPage (x.writePos p hp) _ x.pages
          · exact x.pages
        · exact x.pages
      · rename_i sect hs
        refine pagesWf_putInvalid (x.erasing sect hs) _ ?_ x.pages
        intro o ho
        have := List.mem_range.mp (List.mem_filter.mp ho).1
        exact this
      · split
        · rename_i v _
          exact ((tearArea_carries v.target s).formed x).pages
        · exact x.pages
    exact ⟨w, of_none, of_none, of_none, not_erasing nofun⟩
  · show s.tearArray.pending = s.pending
    unfold State.tearArray
    split
    · rfl
    · unfold State.tearPage
      split
      · split <;> rfl
      · rfl
    · rfl
    · split
      · rename_i v _; exact (tearArea_carries v.target s).pending
      · rfl

theorem resetTo_state (c : ResetCause) (s : State) : (s.resetTo c).roster.state = .offline := rfl

/-- RESET_RELEASED in OFFLINE. -/
theorem enterLoading_runs (s : State) (h : s.roster.state = .offline) :
    Runs s s.enterLoading ∧ s.enterLoading.roster.state = .loading ∧ s.enterLoading.programs = s.programs := by
  have a : Carries (s.setStation .loading) ((s.setStation .loading).postStops) := (postStops_keeps _).carries
  have b : Carries (s.setStation .loading) (if (s.setStation .loading).postStops.pins.stop then
      (s.setStation .loading).postStops.stopInput else (s.setStation .loading).postStops) :=
    Carries.ite (a.trans ((latch_keeps _ _ _).carries.trans (driveBreak_carries _))) a
  have c : ∀ u : State, u.roster.state = .loading → Runs u u.readAreas := fun u hu =>
    (setRoster_runs _ u fun x => table_empty x (.inr hu)).trans (Runs.of_key rfl rfl)
  have st : Runs s (s.setStation .loading) := setRoster_runs _ s fun x => table_empty x (.inl h)
  exact ⟨(st.trans b.toRuns).trans (c _ b.station), b.station, b.programs⟩

/-- START_UP_SCAN_END in LOADING. -/
theorem leaveLoading_runs (s : State) (h : s.roster.state = .loading) :
    Runs s s.leaveLoading ∧ (s.leaveLoading.roster.state = .listening ∨ s.leaveLoading.roster.state = .isolated) ∧
      s.leaveLoading.programs = s.programs := by
  unfold State.leaveLoading
  split
  · exact ⟨enterIsolated_runs _ s, .inr (enterIsolated_state _ s).1, (enterIsolated_state _ s).2⟩
  · split
    · exact ⟨enterIsolated_runs _ s, .inr (enterIsolated_state _ s).1, (enterIsolated_state _ s).2⟩
    · exact ⟨enterListening_runs s h, .inl (enterListening_state s).1, (enterListening_state s).2⟩

/-- What a RECOVERY claim's issue leaves alone, whatever it finds. -/
theorem issueRecovery_rest (s : State) :
    s.issueRecovery.pending = s.pending ∧ (s.Formed → s.issueRecovery.Formed) ∧
      s.issueRecovery.programs = s.programs ∧ s.issueRecovery.roster.state = s.roster.state := by
  unfold State.issueRecovery
  split
  · unfold State.enterOwn
    dsimp only
    refine ⟨(post_keeps _ _ _).carries.pending, fun x => (post_keeps _ _ _).formed ?_,
      (post_keeps _ _ _).carries.programs, (post_keeps _ _ _).carries.station⟩
    exact ⟨x.pages, x.writePos, x.due, x.blocked, x.erasing⟩
  · exact ⟨rfl, id, rfl, rfl⟩

/-- Posting by a joined station and a change of the station state to another joined one go in either order. -/
theorem post_setStation (d : Dest) (p : Payload) (s : State) (h : s.roster.state = .listening) :
    (s.post d p).setStation .active = (s.setStation .active).post d p := by
  have j : s.joined = true := by simp [State.joined, h]
  have k : (s.setStation .active).joined = true := rfl
  unfold State.post
  rw [j, k, if_pos rfl, if_pos rfl]
  show (if s.link.queue.length < 8 then _ else _ : State).setStation .active = if s.link.queue.length < 8 then _ else _
  dsimp only
  split
  · show (if s.link.lineIdle && s.link.queue.isEmpty then _ else _ : State).setStation .active =
      if s.link.lineIdle && s.link.queue.isEmpty then _ else _
    split <;> rfl
  · rfl

/-- A RECOVERY claim issued as the station becomes ACTIVE is the one of an ACTIVE station. -/
theorem issueRecovery_active (s : State) (h : s.roster.state = .listening) :
    s.issueRecovery.setStation .active = (s.setStation .active).issueRecovery := by
  have own : (s.setStation .active).reachOf (s.setStation .active).own = s.reachOf s.own := rfl
  unfold State.issueRecovery
  rw [own]
  split
  · unfold State.enterOwn
    dsimp only
    rw [post_setStation]
    · rfl
    · exact h
  · rfl

/-- JOIN_WINDOW_EXPIRY in LISTENING. -/
theorem endJoin_runs (s : State) (h : s.roster.state = .listening) :
    Runs s s.endJoin ∧ s.endJoin.roster.state = .active ∧ s.endJoin.programs = s.programs := by
  have k := settleAccount_keeps s
  have l : s.settleAccount.roster.state = .listening := k.station.trans h
  have none_own : s.settleAccount.Sound → ∀ i ∈ identities s.settleAccount.claims.table, i.1 ≠ s.settleAccount.own :=
    fun x => x.bounded.owned (by rw [l]; decide)
  have a : Runs s.settleAccount (s.settleAccount.setStation .active) := by
    refine ⟨fun x => ⟨x.tied, x.stale, x.queue, x.rising, x.contexts, x.loops, x.jobs, x.queued, x.retained, x.holding,
      ?_⟩, fun x => ⟨x.pages, x.writePos, x.due, x.blocked, x.erasing⟩, rfl⟩
    have y := x.bounded
    exact ⟨y.limited, y.unique, fun n => absurd rfl n, fun n => n.elim nofun nofun, y.listsA, y.listsB⟩
  unfold State.endJoin
  dsimp only
  split
  · exact ⟨k.carries.toRuns.trans a, rfl, k.carries.programs⟩
  · rw [issueRecovery_active _ l]
    have r := issueRecovery_rest (s.settleAccount.setStation .active)
    have b : Runs s.settleAccount (s.settleAccount.setStation .active).issueRecovery :=
      ⟨fun x => (issueRecovery_keeps (s.settleAccount.setStation .active) rfl fun _ => none_own x).sound (a.sound x), fun x => r.2.1 (a.formed x), r.1⟩
    exact ⟨k.carries.toRuns.trans b, r.2.2.2, r.2.2.1.trans k.carries.programs⟩

/-- A command that changes neither the station state nor the programs. -/
def Carried (c : Instr) (s : State) : Prop := ∃ t, exec c s = .next t ∧ Carries s t

theorem carried_of_request {c : Instr} {work : State → State} {s : State} (e : exec c s = s.request c work)
    (h : ∀ s, Carries s (work s)) : Carried c s := by
  obtain ⟨t, a, b⟩ := request_carries (i := c) h s
  exact ⟨t, e.trans a, b⟩

theorem status_carried (s : State) : Carried .status s := by
  refine carried_of_request (work := fun t => (t.ok (.status t.view)).takeFlags.markRead) rfl fun t => ?_
  exact ((ok_carries _ t).trans (takeFlags_carries _)).trans (markRead_carries _)

theorem acknowledge_carried (m : BitVec 16) (s : State) : Carried (.acknowledge m) s :=
  carried_of_request rfl (acknowledge_carries _)

theorem readAccount_carried (s : State) : Carried .readAccount s := by
  refine carried_of_request (work := fun t => t.ok (.account t.accountView)) rfl fun t => ?_
  exact ok_carries _ t

theorem readTable_carried (s : State) : Carried .readTable s := by
  refine carried_of_request (work := fun t => t.ok (.table t.claims.table t.roster.ticketCounter
    t.claims.ownCounter)) rfl fun t => ?_
  exact ok_carries _ t

theorem readJobList_carried (s : State) : Carried .readJobList s := by
  show ∃ t, execReadJobList s = .next t ∧ Carries s t
  unfold execReadJobList
  exact request_carries (fun t => Carries.trans (ok_carries _ t) (markRead_carries _)) s

theorem readIdentity_carried (s : State) : Carried .readIdentity s := by
  refine carried_of_request (work := fun t => t.ok (.identity t.identityView)) rfl fun t => ?_
  exact ok_carries _ t

theorem submitJob_carried (g : BitVec 16) (a b c d e : Nat) (s : State) : Carried (.submitJob g a b c d e) s :=
  carried_of_request rfl (submit_carries _ _ _ _ _)

theorem cancelJob_carried (tag : BitVec 16) (s : State) : Carried (.cancelJob tag) s := by
  refine carried_of_request (work := fun t => match t.jobs.list.find? (·.tag == tag) with
    | some j => t.cancel j
    | none => t.refuse .unknownTag) rfl fun t => ?_
  split
  · exact cancel_carries _ t
  · exact refuse_carries _ t

theorem readProgram_carried (n : Nat) (s : State) : Carried (.readProgram n) s := by
  refine carried_of_request (work := fun t => if n < 8 then t.ok (.program (t.program n)) else t.invalid) rfl fun t => ?_
  exact Carries.ite (ok_carries _ t) (invalid_carries t)

theorem charge_carried (n : Nat) (s : State) : Carried (.charge n) s :=
  carried_of_request rfl (hostEntry_carries _ _ _)

theorem skim_carried (n : Nat) (s : State) : Carried (.skim n) s :=
  carried_of_request rfl (hostEntry_carries _ _ _)

theorem adjust_carried (n : Int) (s : State) : Carried (.adjust n) s :=
  carried_of_request rfl (hostEntry_carries _ _ _)

theorem checkpoint_carried (s : State) : Carried .checkpoint s :=
  carried_of_request rfl hostCheckpoint_carries

theorem pause_carried (s : State) : Carried .pause s := by
  refine carried_of_request (work := fun t => (t.latch .pause .host).ok (.disposition t.pauseDisposition)) rfl fun t => ?_
  exact (latch_keeps _ _ t).carries.trans (ok_carries _ _)

theorem resume_carried (s : State) : Carried .resume s :=
  carried_of_request rfl hostResume_carries

theorem allStop_carried (s : State) : Carried .allStop s := by
  refine carried_of_request (work := fun t => ((t.latch .stop .allStop).driveBreak).ok .empty) rfl fun t => ?_
  exact ((latch_keeps _ _ t).carries.trans (driveBreak_carries _)).trans (ok_carries _ _)

theorem liftClear_carried (s : State) : Carried .liftClear s :=
  carried_of_request rfl liftClear_carries

theorem vacate_carried (n : Nat) (s : State) : Carried (.vacate n) s :=
  carried_of_request rfl (vacate_carries _)

theorem readLog_carried (a b : Nat) (s : State) : Carried (.readLog a b) s :=
  carried_of_request rfl (readLog_carries _ _)

theorem lockSections_carried (a b : Nat) (s : State) : Carried (.lockSections a b) s :=
  carried_of_request rfl (lock_carries _ _)

theorem unlockSections_carried (a b : Nat) (s : State) : Carried (.unlockSections a b) s :=
  carried_of_request rfl (unlock_carries _ _)

theorem writeConfig_carried (l : List Byte) (s : State) : Carried (.writeConfig l) s :=
  carried_of_request rfl (writeConfig_carries _)

/-! ## The commands that are no requests -/

theorem stopInputAsserted_carried (s : State) : Carried .stopInputAsserted s := by
  have pin : ∀ u : State, Carries u (u.setStopPin true) := fun u => Carries.of_key rfl rfl rfl rfl
  simp only [Carried, exec, execStopInputAsserted]
  split
  · exact ⟨_, rfl, pin s⟩
  · exact ⟨_, rfl, ((pin s).trans ((latch_keeps _ _ _).carries.trans (driveBreak_carries _))).trans (finish_carries _)⟩

theorem stopInputReleased_carried (s : State) : Carried .stopInputReleased s :=
  ⟨_, rfl, Carries.of_key rfl rfl rfl rfl⟩

theorem protectInputChange_carried (b : Bool) (s : State) : Carried (.protectInputChange b) s :=
  ⟨_, rfl, Carries.of_key rfl rfl rfl rfl⟩

theorem contactEdge_carried (h : Hook) (b : Bool) (t : Time) (s : State) : Carried (.contactEdge h b t) s := by
  simp only [Carried, exec, execContactEdge]
  split
  · exact ⟨_, rfl, (contactEdge_carries h b t s).trans (finish_carries _)⟩
  · exact ⟨_, rfl, Carries.refl s⟩

theorem frameEnd_carried (w : WireFrame) (s : State) : Carried (.frameEnd w) s := frameEnd_carries w s

theorem idleGapExpiry_carried (s : State) : Carried .idleGapExpiry s := by
  simp only [Carried, exec, execIdleGapExpiry]
  split
  · have k := lineTaken_carries s
    refine ⟨_, rfl, k.trans (Carries.of_link (s := s.lineTaken) _ ?_ (.inl ?_) (.inl ?_))⟩
    · split
      · exact Nat.le_of_eq (by rw [Link.begin_queue])
      · exact Nat.le_refl _
    · split
      · exact (Link.begin_rx _).1
      · rfl
    · split
      · exact (Link.begin_rx _).2
      · rfl
  · exact ⟨_, rfl, Carries.refl s⟩

theorem lostArbitration_carried (s : State) : Carried .lostArbitration s := by
  simp only [Carried, exec, execLostArbitration]
  split
  · refine ⟨_, rfl, (Carries.of_link _ ?_).trans (countLink_keeps _ _).carries⟩
    dsimp only; split <;> simp
  · exact ⟨_, rfl, Carries.refl s⟩

theorem frameSent_carried (s : State) : Carried .frameSent s := by
  simp only [Carried, exec, execFrameSent]
  split
  · refine ⟨_, rfl, Carries.of_link _ ?_⟩
    dsimp only; rw [List.length_tail]; omega
  · exact ⟨_, rfl, Carries.refl s⟩

theorem lineBreakDetected_carried (s : State) : Carried .lineBreakDetected s := by
  simp only [Carried, exec, execLineBreakDetected]
  split
  · exact ⟨_, rfl, Carries.refl s⟩
  · have k : Carries s.lineTaken { s.lineTaken with link := { s.lineTaken.link with inBreak := true } } :=
      Carries.of_link _ (Nat.le_refl _)
    exact ⟨_, rfl, (((lineTaken_carries s).trans k).trans (latch_keeps _ _ _).carries).trans (finish_carries _)⟩

theorem lineBreakReleased_carried (s : State) : Carried .lineBreakReleased s :=
  ⟨_, rfl, Carries.of_link _ (Nat.le_refl _)⟩

theorem breakDriveEnd_carried (s : State) : Carried .breakDriveEnd s := ⟨_, rfl, Carries.of_link _ (Nat.le_refl _)⟩

theorem answerWindowExpiry_carried (n : BitVec 16) (s : State) : Carried (.answerWindowExpiry n) s := by
  simp only [Carried, exec, execAnswerWindowExpiry]
  split
  · exact ⟨_, rfl, ((reachExpiry_keeps _ s).trans (resendClaim_keeps _ _)).carries⟩
  · exact ⟨_, rfl, Carries.refl s⟩

theorem fetchTimerExpiry_carried (s : State) : Carried .fetchTimerExpiry s :=
  ⟨_, rfl, onExpiry_carries (fun t => (fetchFrom_keeps _ t).carries) _ s⟩

theorem claimWaitExpiry_carried (s : State) : Carried .claimWaitExpiry s := by
  simp only [Carried, exec, execClaimWaitExpiry]
  split
  · exact ⟨_, rfl, (((reachExpiry_keeps _ s).trans (setClaimWait_keeps _ _)).carries.trans
      (claimWaitEnd_carries _ _)).trans (finish_carries _)⟩
  · exact ⟨_, rfl, Carries.refl s⟩

theorem endTiming_keeps (s : State) : Keeps s s.endTiming := setSeq_keeps _ s (by exact id)

theorem dwellTimerExpiry_carried (s : State) : Carried .dwellTimerExpiry s := by
  simp only [Carried, exec, execDwellTimerExpiry]
  split
  · exact ⟨_, rfl, ((reachExpiry_keeps _ s).trans (endTiming_keeps _)).carries.trans (finish_carries _)⟩
  · exact ⟨_, rfl, Carries.refl s⟩

theorem drainTimerExpiry_carried (s : State) : Carried .drainTimerExpiry s := by
  simp only [Carried, exec, execDrainTimerExpiry]
  split
  · exact ⟨_, rfl, (((reachExpiry_keeps _ s).trans (bankDrain_keeps _)).trans (endTiming_keeps _)).carries.trans
      (finish_carries _)⟩
  · exact ⟨_, rfl, Carries.refl s⟩

theorem endLiftWeigh_keeps (s : State) : Keeps s s.endLiftWeigh :=
  ((recordWeight_keeps _ s).trans (setSeq_keeps _ _ (by exact id))).trans (closeJob_keeps _)

theorem settleTimerExpiry_carried (s : State) : Carried .settleTimerExpiry s := by
  simp only [Carried, exec, execSettleTimerExpiry]
  split
  · split
    · exact ⟨_, rfl, ((reachExpiry_keeps _ s).trans (endLiftWeigh_keeps _)).carries.trans (finish_carries _)⟩
    · exact ⟨_, rfl, (((reachExpiry_keeps _ s).trans (recordWeight_keeps _ _)).trans (endTiming_keeps _)).carries.trans
        (finish_carries _)⟩
    · exact ⟨_, rfl, Carries.refl s⟩
  · exact ⟨_, rfl, Carries.refl s⟩

theorem driveSendEnd_carried (s : State) : Carried .driveSendEnd s := by
  have k : Carries s { s with drive := { s.drive with busy := false } } := Carries.of_key rfl rfl rfl rfl
  exact ⟨_, rfl, k.trans (serveDrives_keeps _).carries⟩

theorem arrived_carried (ch : Channel) (n : Int) (s : State) : Carried (.arrived ch n) s := by
  simp only [Carried, exec, execArrived]
  split
  · have mark : ∀ (f : InFlight) (u : State), Keeps u (u.markArrived ch f) := fun f u =>
      Keeps.ite (setSeq_keeps _ _ (by cases ch <;> exact id)) (Keeps.refl _)
    exact ⟨_, rfl, ((setChannel_keeps _ _ s).trans (mark _ _)).carries.trans (finish_carries _)⟩
  · exact ⟨_, rfl, Carries.refl s⟩

theorem report_carried (ch : Channel) (p : Int) (l : Nat) (b : Bool) (s : State) : Carried (.report ch p l b) s := by
  have test : ∀ u : State, Keeps u (u.testReport ch) := by
    intro u
    cases ch
    · exact syncTest_keeps u
    · exact syncTest_keeps u
    · exact travelTest_keeps u
  simp only [Carried, exec, execReport]
  split
  · exact ⟨_, rfl, ((setChannel_keeps _ _ s).trans (test _)).carries.trans (finish_carries _)⟩
  · exact ⟨_, rfl, Carries.refl s⟩

theorem fault_carried (ch : Channel) (b : Byte) (s : State) : Carried (.fault ch b) s := by
  simp only [Carried, exec, execFault]
  split
  · exact ⟨_, rfl, ((setChannel_keeps _ _ s).trans (latch_keeps _ _ _)).carries.trans (finish_carries _)⟩
  · exact ⟨_, rfl, Carries.refl s⟩

theorem ready_carried (ch : Channel) (s : State) : Carried (.ready ch) s := by
  simp only [Carried, exec, execReady]
  split
  · exact ⟨_, rfl, (setChannel_keeps _ _ s).carries⟩
  · exact ⟨_, rfl, Carries.refl s⟩

theorem driveEventDiscarded_carried (s : State) : Carried .driveEventDiscarded s := by
  simp only [Carried, exec, execDriveEventDiscarded]
  split
  · exact ⟨_, rfl, Carries.of_key rfl rfl rfl rfl⟩
  · exact ⟨_, rfl, Carries.refl s⟩

theorem moveTimerExpiry_carried (ch : Channel) (s : State) : Carried (.moveTimerExpiry ch) s :=
  ⟨_, rfl, onExpiry_carries (fun t => (((setChannel_keeps _ _ t).trans (latch_keeps _ _ _)).trans
    (postCommand_keeps _ _ _)).carries.trans (finish_carries _)) _ s⟩

theorem stopAllowanceExpiry_carried (ch : Channel) (s : State) : Carried (.stopAllowanceExpiry ch) s :=
  ⟨_, rfl, onExpiry_carries (fun t => ((Keeps.ite (latch_keeps _ _ t) (Keeps.refl t)).trans
    (setChannel_keeps _ _ _)).carries.trans (finish_carries _)) _ s⟩

theorem silenceTimerExpiry_carried (r : Rank) (s : State) : Carried (.silenceTimerExpiry r) s :=
  ⟨_, rfl, onExpiry_carries (fun t => (Carries.ite (depart_carries r t) (setPeer_carries _ _ t)).trans
    (finish_carries _)) _ s⟩

theorem beat_carries (s : State) : Carries s s.beat := by
  have k : ∀ t : Option Timer, Carries s { s with roster := { s.roster with beaconTimer := t } } :=
    fun t => Carries.of_key rfl rfl rfl rfl
  exact (k _).trans (post_keeps _ _ _).carries

theorem beaconTimerExpiry_carried (s : State) : Carried .beaconTimerExpiry s :=
  ⟨_, rfl, onExpiry_carries beat_carries _ s⟩

theorem commitEnd_carried (b : Bool) (s : State) : Carried (.commitEnd b) s :=
  ⟨_, rfl, (endCommit_keeps b s).carries.trans (finish_carries _)⟩

theorem eraseEnd_carried (l : List Nat) (s : State) : Carried (.eraseEnd l) s :=
  ⟨_, rfl, (endErase_keeps l s).carries.trans (finish_carries _)⟩

theorem areaWriteEnd_carried (b : Bool) (s : State) : Carried (.areaWriteEnd b) s :=
  ⟨_, rfl, (endAreaWrite_carries b s).trans (finish_carries _)⟩

theorem badRequest_carries (s : State) : Carries s s.badRequest :=
  Carries.ite (Carries.refl s) (Carries.ite (Carries.of_key rfl rfl rfl rfl) (Carries.of_key rfl rfl rfl rfl))

theorem requestIgnored_carried (s : State) : Carried .requestIgnored s :=
  ⟨_, rfl, Carries.ite (Carries.of_key rfl rfl rfl rfl) (Carries.refl s)⟩

theorem unknownRequest_carried (b : Byte) (s : State) : Carried (.unknownRequest b) s :=
  carried_of_request rfl invalid_carries

theorem answerSent_carried (s : State) : Carried .answerSent s := by
  simp only [Carried, exec, execAnswerSent]
  split
  · exact ⟨_, rfl, Carries.of_key rfl rfl rfl rfl⟩
  · exact ⟨_, rfl, Carries.refl s⟩

/-! ## Every command -/

theorem exec_command (k : FrameKind) (s : State) : exec k.command s = .next (s.dispatch k takePayload) := by
  cases k <;> rfl

theorem loadProgram_runs (n : Nat) (l : List RawSegment) (s : State) : ∃ t, exec (.loadProgram n l) s = .next t ∧ Runs s t ∧ t.roster.state = s.roster.state := by
  show ∃ t, execLoadProgram n l s = .next t ∧ _
  unfold execLoadProgram
  rcases request_cases s (.loadProgram n l) (State.load n l) with e | e | ⟨_, e⟩
  · exact ⟨_, e, Runs.refl s, rfl⟩
  · exact ⟨_, e, Runs.of_key rfl rfl, rfl⟩
  · have h := load_runs n l (s.working (.loadProgram n l))
    exact ⟨_, e, ((working_carries _ s).toRuns.trans h.1).trans (finish_carries _).toRuns, ((finish_carries _).station.trans h.2).trans (working_carries _ s).station⟩

theorem joinWindowExpiry_runs (s : State) : ∃ t, exec .joinWindowExpiry s = .next t ∧ Runs s t ∧ t.programs = s.programs ∧ (t.roster.state = s.roster.state ∨ s.roster.state = .listening ∧ t.roster.state = .active) := by
  show ∃ t, execJoinWindowExpiry s = .next t ∧ _
  unfold execJoinWindowExpiry
  split
  · rename_i l
    refine ⟨_, rfl, ?_⟩
    rcases onExpiry_cases s s.roster.joinWindow (fun t => t.stopJoinWindow.endJoin.finish) with e | ⟨t, _, e⟩
    · rw [e]; exact ⟨Runs.refl s, rfl, .inl rfl⟩
    · rw [e]
      have a : Carries (s.reachExpiry t) (s.reachExpiry t).stopJoinWindow := Carries.of_key rfl rfl rfl rfl
      have b := (reachExpiry_keeps t s).carries.trans a
      have c := endJoin_runs (s.reachExpiry t).stopJoinWindow (b.station.trans l)
      have d := finish_carries (s.reachExpiry t).stopJoinWindow.endJoin
      exact ⟨(b.toRuns.trans c.1).trans d.toRuns, (d.programs.trans c.2.2).trans b.programs, .inr ⟨l, d.station.trans c.2.1⟩⟩
  · exact ⟨_, rfl, Runs.refl s, rfl, .inl rfl⟩

theorem startUpScanEnd_runs (s : State) : ∃ t, exec .startUpScanEnd s = .next t ∧ Runs s t ∧ t.programs = s.programs ∧ (t.roster.state = s.roster.state ∨ s.roster.state = .loading ∧ (t.roster.state = .listening ∨ t.roster.state = .isolated)) := by
  show ∃ t, execStartUpScanEnd s = .next t ∧ _
  unfold execStartUpScanEnd
  split
  · rename_i l
    have b := (takeScan_keeps s).carries
    have c := leaveLoading_runs s.takeScan (b.station.trans l.1)
    have d := finish_carries s.takeScan.leaveLoading
    exact ⟨_, rfl, (b.toRuns.trans c.1).trans d.toRuns, (d.programs.trans c.2.2).trans b.programs, .inr ⟨l.1, by rw [d.station]; exact c.2.1⟩⟩
  · exact ⟨_, rfl, Runs.refl s, rfl, .inl rfl⟩

theorem resetReleased_runs (s : State) : ∃ t, exec .resetReleased s = .next t ∧ Runs s t ∧ t.programs = s.programs ∧ (t.roster.state = s.roster.state ∨ s.roster.state = .offline ∧ t.roster.state = .loading) := by
  show ∃ t, execResetReleased s = .next t ∧ _
  unfold execResetReleased
  split
  · exact ⟨_, rfl, Runs.refl s, rfl, .inl rfl⟩
  · rename_i l
    have off : s.roster.state = .offline := by rw [isOn_iff] at l; simpa using l
    have c := enterLoading_runs s off
    have d := finish_carries s.enterLoading
    exact ⟨_, rfl, c.1.trans d.toRuns, d.programs.trans c.2.2, .inr ⟨off, d.station.trans c.2.1⟩⟩

/-- A command is carried, or is one of those whose own lemma says more. -/
theorem exec_cases (c : Instr) (s : State) : Carried c s ∨ c = .powerOn ∨ c = .resetAsserted ∨ c = .resetReleased ∨ c = .startUpScanEnd ∨ c = .joinWindowExpiry ∨ (∃ k : FrameKind, c = k.command) ∨ ∃ n l, c = .loadProgram n l := by
  cases c
  case powerOn => simp
  case resetAsserted => simp
  case resetReleased => simp
  case startUpScanEnd => simp
  case joinWindowExpiry => simp
  case loadProgram n l => simp
  case claimTaken => exact .inr (.inr (.inr (.inr (.inr (.inr (.inl ⟨.claim, rfl⟩))))))
  case verdictTaken => exact .inr (.inr (.inr (.inr (.inr (.inr (.inl ⟨.verdict, rfl⟩))))))
  case releaseTaken => exact .inr (.inr (.inr (.inr (.inr (.inr (.inl ⟨.release, rfl⟩))))))
  case vacateTaken => exact .inr (.inr (.inr (.inr (.inr (.inr (.inl ⟨.vacate, rfl⟩))))))
  case entryTaken => exact .inr (.inr (.inr (.inr (.inr (.inr (.inl ⟨.entry, rfl⟩))))))
  case gapTaken => exact .inr (.inr (.inr (.inr (.inr (.inr (.inl ⟨.gap, rfl⟩))))))
  case goneTaken => exact .inr (.inr (.inr (.inr (.inr (.inr (.inl ⟨.gone, rfl⟩))))))
  case fetchTaken => exact .inr (.inr (.inr (.inr (.inr (.inr (.inl ⟨.fetch, rfl⟩))))))
  case snapshotTaken => exact .inr (.inr (.inr (.inr (.inr (.inr (.inl ⟨.snapshot, rfl⟩))))))
  case beaconTaken => exact .inr (.inr (.inr (.inr (.inr (.inr (.inl ⟨.beacon, rfl⟩))))))
  case joinTaken => exact .inr (.inr (.inr (.inr (.inr (.inr (.inl ⟨.join, rfl⟩))))))
  case stateTaken => exact .inr (.inr (.inr (.inr (.inr (.inr (.inl ⟨.state, rfl⟩))))))
  case stopInputAsserted => exact .inl (stopInputAsserted_carried _)
  case stopInputReleased => exact .inl (stopInputReleased_carried _)
  case protectInputChange => exact .inl (protectInputChange_carried _ _)
  case contactEdge => exact .inl (contactEdge_carried _ _ _ _)
  case frameEnd => exact .inl (frameEnd_carried _ _)
  case idleGapExpiry => exact .inl (idleGapExpiry_carried _)
  case lostArbitration => exact .inl (lostArbitration_carried _)
  case frameSent => exact .inl (frameSent_carried _)
  case lineBreakDetected => exact .inl (lineBreakDetected_carried _)
  case lineBreakReleased => exact .inl (lineBreakReleased_carried _)
  case breakDriveEnd => exact .inl (breakDriveEnd_carried _)
  case answerWindowExpiry => exact .inl (answerWindowExpiry_carried _ _)
  case fetchTimerExpiry => exact .inl (fetchTimerExpiry_carried _)
  case claimWaitExpiry => exact .inl (claimWaitExpiry_carried _)
  case dwellTimerExpiry => exact .inl (dwellTimerExpiry_carried _)
  case drainTimerExpiry => exact .inl (drainTimerExpiry_carried _)
  case settleTimerExpiry => exact .inl (settleTimerExpiry_carried _)
  case driveSendEnd => exact .inl (driveSendEnd_carried _)
  case arrived => exact .inl (arrived_carried _ _ _)
  case report => exact .inl (report_carried _ _ _ _ _)
  case fault => exact .inl (fault_carried _ _ _)
  case ready => exact .inl (ready_carried _ _)
  case driveEventDiscarded => exact .inl (driveEventDiscarded_carried _)
  case moveTimerExpiry => exact .inl (moveTimerExpiry_carried _ _)
  case stopAllowanceExpiry => exact .inl (stopAllowanceExpiry_carried _ _)
  case silenceTimerExpiry => exact .inl (silenceTimerExpiry_carried _ _)
  case beaconTimerExpiry => exact .inl (beaconTimerExpiry_carried _)
  case commitEnd => exact .inl (commitEnd_carried _ _)
  case eraseEnd => exact .inl (eraseEnd_carried _ _)
  case areaWriteEnd => exact .inl (areaWriteEnd_carried _ _)
  case requestPauseTimeout => exact .inl ⟨_, rfl, badRequest_carries _⟩
  case requestCheckFailed => exact .inl ⟨_, rfl, badRequest_carries _⟩
  case requestIgnored => exact .inl (requestIgnored_carried _)
  case unknownRequest => exact .inl (unknownRequest_carried _ _)
  case answerSent => exact .inl (answerSent_carried _)
  case status => exact .inl (status_carried _)
  case acknowledge => exact .inl (acknowledge_carried _ _)
  case readAccount => exact .inl (readAccount_carried _)
  case readTable => exact .inl (readTable_carried _)
  case readJobList => exact .inl (readJobList_carried _)
  case readIdentity => exact .inl (readIdentity_carried _)
  case submitJob => exact .inl (submitJob_carried _ _ _ _ _ _ _)
  case cancelJob => exact .inl (cancelJob_carried _ _)
  case readProgram => exact .inl (readProgram_carried _ _)
  case charge => exact .inl (charge_carried _ _)
  case skim => exact .inl (skim_carried _ _)
  case adjust => exact .inl (adjust_carried _ _)
  case checkpoint => exact .inl (checkpoint_carried _)
  case pause => exact .inl (pause_carried _)
  case resume => exact .inl (resume_carried _)
  case allStop => exact .inl (allStop_carried _)
  case liftClear => exact .inl (liftClear_carried _)
  case vacate => exact .inl (vacate_carried _ _)
  case readLog => exact .inl (readLog_carried _ _ _)
  case lockSections => exact .inl (lockSections_carried _ _ _)
  case unlockSections => exact .inl (unlockSections_carried _ _ _)
  case writeConfig => exact .inl (writeConfig_carried _ _)

theorem exec_runs (c : Instr) (s : State) : ∃ t, exec c s = .next t ∧ Runs s t := by
  rcases exec_cases c s with h | rfl | rfl | rfl | rfl | rfl | ⟨k, rfl⟩ | ⟨n, l, rfl⟩
  · obtain ⟨t, a, b⟩ := h; exact ⟨t, a, b.toRuns⟩
  · exact ⟨_, rfl, resetTo_runs _ s⟩
  · exact ⟨_, rfl, resetTo_runs _ s⟩
  · obtain ⟨t, a, b, _⟩ := resetReleased_runs s; exact ⟨t, a, b⟩
  · obtain ⟨t, a, b, _⟩ := startUpScanEnd_runs s; exact ⟨t, a, b⟩
  · obtain ⟨t, a, b, _⟩ := joinWindowExpiry_runs s; exact ⟨t, a, b⟩
  · exact ⟨_, exec_command k s, (dispatch_isolates k s).1⟩
  · obtain ⟨t, a, b, _⟩ := loadProgram_runs n l s; exact ⟨t, a, b⟩

end Sys2Proof.Machine
end

