-- ==== Sys2Proof/Tests/Slice0.lean ====
section
/-! SUPPORT. Tests. `test_…` checks the model on small values, most of them from the manual's worked examples. `met_…`
shows, for each statement with hypotheses, states and operands that meet them, clause by clause. -/

set_option Elab.async false

namespace Sys2Proof.Tests

open Sys2Proof Sys2Proof.Machine

/-! ## States to start from -/

/-- Station 1 of the crossing-claims example (01). -/
def conf : ConfigRecord where
  ownRank := 1
  cells := 16
  cellLength := 1000
  reach := #v[none, some ⟨0, 7⟩, none, some ⟨4, 11⟩, some ⟨8, 15⟩, none, none, none]
  beaconPeriod := 200
  floor := 100000
  clear := 1000
  answerWindow := 300
  lowerLimit := -3000
  upperLimit := 6000
  slowSpeed := 100
  liftSpeed := 150
  travelSpeed := 250
  syncTolerance := 10

/-- A live peer with a unique id. -/
def livePeer (id : BitVec 64) : Peer := ⟨some id, some 0, some .active, some .synced, none, true, some ⟨0, 600⟩, false⟩

/-- The station ACTIVE and SYNCED, peers 3 and 4 live, the log OPEN. -/
def active : State :=
  { State.reset with
    roster := { State.reset.roster with
      state := .active, identity := some ⟨1, true⟩, config := some conf, digest := 7, ticketCounter := 20
      peers := #v[.reset, .reset, .reset, livePeer 3, livePeer 4, .reset, .reset, .reset] }
    claims := ⟨[], 6⟩
    account := { State.reset.account with balance := 5000000, state := .synced }
    log := { State.reset.log with state := .opened, writePos := some 0, locks := 0 } }

/-- The station in another state. -/
def inState (st : StationState) : State := { active with roster := { active.roster with state := st } }

/-- The station with entries in its table. -/
def withTable (t : List ClaimEntry) (s : State) : State := s.setTable t

/-- The station with an account state. -/
def inAccount (a : AccountState) (s : State) : State := s.setAccountState a

/-- The station with a frame of rank 3 in buffer A. -/
def hearing (p : Payload) (s : State) : State := { s with link := { s.link with rxA := some ⟨⟨3, .all, p⟩, 0⟩ } }

/-- The frame. -/
def from3 (p : Payload) : Frame := ⟨3, .all, p⟩

/-- What rank 3 says of itself. -/
def id3 : Identity := ⟨3, 7, .active⟩

/-- A beacon of rank 3. -/
def beacon3 (ownSeq balance : Nat) (census : List (BitVec 16)) : BeaconFields :=
  ⟨20, census, Vector.replicate 8 0, ownSeq, balance, .synced⟩

/-- An entry of the table. -/
def claimOf (origin : Rank) (number : BitVec 16) (first last : Nat) (st : ClaimState) : ClaimEntry :=
  ⟨origin, number, .dip, 21, ⟨first, last⟩, 400000, st, none⟩

/-- A job over [5, 7]. -/
def job (st : JobState) : Job :=
  ⟨501, 0, ⟨5, 7⟩, 400000, 300, st, none, none, none, none, false, false, none, none, false⟩

/-- The station with a job at the head of its list. -/
def withJob (j : Job) (s : State) : State := { s with jobs := { s.jobs with list := [j] } }

/-- The station with a program in slot 0. -/
def withProgram (p : List Segment) (s : State) : State := { s with programs := ⟨s.programs.slots.set 0 p⟩ }

/-- The station with a channel's latest position. -/
def at' (ch : Channel) (position : Int) (s : State) : State :=
  s.setChannel ch { s.channel ch with report := some ⟨position, 0, false, 0⟩ }

/-- The station with a command in flight on a channel. -/
def moving (ch : Channel) (st : FlightStatus) (s : State) : State :=
  s.setChannel ch { s.channel ch with
    inFlight := some ⟨-1500, 100, some 1200, 0, st, true, false⟩, timer := some ⟨0, 2000⟩ }

/-- The station with its clock at a reading. -/
def atTime (t : Time) (s : State) : State := s.setClock t

/-- The station walking a segment. -/
def walking (g : Segment) (t : SegTimer) (s : State) : State :=
  (withProgram [g] (withJob (job .running) s)).setSeq
    { s.seq with activity := .segment, slot := some 0, index := some 0, phase := some .timing, timer := t }

/-- A sound frame that the Roster lets go on is heard. -/
theorem hears {s : State} {i : BufferId} {f : Frame}
    (h : (s.joined && s.link.oldest == some (i, f) && f.origin != s.own && !s.roster.peers[f.origin].excluded &&
      f.payload.identity?.all fun id => id.digest == s.roster.digest &&
        s.roster.peers[f.origin].uniqueId == some id.uniqueId) = true) : s.Hears i f := by
  simp only [Bool.and_eq_true, beq_iff_eq, bne_iff_ne, Bool.not_eq_true', Option.all_eq_true] at h
  exact ⟨h.1.1.1.1, h.1.1.1.2, h.1.1.2, fun id m => (h.2 id m).1, fun _ id m => (h.2 id m).2,
    fun e => absurd (h.1.2 ▸ e) (by decide)⟩

/-! ## Which commands are well-formed -/

theorem test_frameEnd_wellFormed :
    (Instr.frameEnd ⟨List.replicate 262 0, true, false, true⟩).wellFormed = true ∧
    (Instr.frameEnd ⟨List.replicate 263 0, true, false, true⟩).wellFormed = false := by decide +kernel

theorem test_drive_operands_wellFormed :
    (Instr.arrived .lead (-2147483648)).wellFormed = true ∧
    (Instr.arrived .lead 2147483648).wellFormed = false ∧
    (Instr.report .lead 0 2147483647 true).wellFormed = true ∧
    (Instr.report .lead (-2147483649) 0 true).wellFormed = false ∧
    (Instr.report .lead 0 2147483648 true).wellFormed = false ∧
    (Instr.fault .travel 0).wellFormed = false ∧ (Instr.fault .travel 1).wellFormed = true := by decide

theorem test_eraseEnd_wellFormed :
    (Instr.eraseEnd [0, 63]).wellFormed = true ∧ (Instr.eraseEnd [64]).wellFormed = false ∧
    (Instr.eraseEnd [3, 3]).wellFormed = false := by decide

theorem test_job_operands_wellFormed :
    (Instr.submitJob 1 255 255 255 4294967295 65535).wellFormed = true ∧
    (Instr.submitJob 1 256 0 0 0 0).wellFormed = false ∧ (Instr.submitJob 1 0 256 0 0 0).wellFormed = false ∧
    (Instr.submitJob 1 0 0 256 0 0).wellFormed = false ∧
    (Instr.submitJob 1 0 0 0 4294967296 0).wellFormed = false ∧
    (Instr.submitJob 1 0 0 0 0 65536).wellFormed = false := by decide

theorem test_program_operands_wellFormed :
    (Instr.loadProgram 255 [⟨0, 0, List.replicate 8 0⟩]).wellFormed = true ∧
    (Instr.loadProgram 256 []).wellFormed = false ∧
    (Instr.loadProgram 0 [⟨0, 0, List.replicate 7 0⟩]).wellFormed = false ∧
    (Instr.loadProgram 0 (List.replicate 256 ⟨0, 0, List.replicate 8 0⟩)).wellFormed = false ∧
    (Instr.readProgram 256).wellFormed = false := by decide +kernel

theorem test_account_operands_wellFormed :
    (Instr.charge 4294967296).wellFormed = false ∧ (Instr.skim 4294967296).wellFormed = false ∧
    (Instr.adjust 2147483648).wellFormed = false ∧ (Instr.adjust (-2147483648)).wellFormed = true := by decide

theorem test_rank_and_log_operands_wellFormed :
    (Instr.vacate 256).wellFormed = false ∧ (Instr.readLog 65536 1).wellFormed = false ∧
    (Instr.readLog 0 256).wellFormed = false ∧ (Instr.lockSections 256 0).wellFormed = false ∧
    (Instr.unlockSections 0 256).wellFormed = false ∧
    (Instr.writeConfig (List.replicate 48 0)).wellFormed = true ∧
    (Instr.writeConfig (List.replicate 47 0)).wellFormed = false := by decide +kernel

/-! ## Words and frames -/

/-- No row of the table has bits, so no word spells a command and no queue changes. -/
theorem test_no_word_decodes :
    decodeTableWord 16 0x1234 = none ∧ active.withFetchWord 16 0x1234 = active := ⟨rfl, rfl⟩

theorem test_crc_of_the_nine_digits :
    crc16 [0x31, 0x32, 0x33, 0x34, 0x35, 0x36, 0x37, 0x38, 0x39] = 0x29B1#16 := by decide +kernel

/-- The characters of the example CLAIM 1/7 (12), up to its check. -/
theorem test_claim_characters :
    (Frame.chars ⟨1, .all, .claim ⟨7, .dip, 21, ⟨5, 7⟩, 400000⟩⟩).take 17 =
      [0xAA, 0x48, 0xFF, 0x0D, 0x00, 0x07, 0x00, 0x00, 0x00, 0x00, 0x15, 0x05, 0x07, 0x00, 0x06, 0x1A, 0x80] := by
  decide +kernel

/-- A frame of rank 4 reads back as it was sent. -/
theorem test_frame_reads_back :
    testFrame (Frame.wire ⟨4, .rank 1, .verdict 7 .refuse true⟩ false true) =
      .good ⟨4, .rank 1, .verdict 7 .refuse true⟩ := by decide +kernel

/-- A stored segment is read back as it was loaded. -/
theorem test_segment_bytes :
    (readSegments 1 (Segment.bytes ⟨.hoist (-1500) 1200 150, true, ⟨true, false, true⟩⟩)).map storedSegment =
      [⟨.hoist (-1500) 1200 150, true, ⟨true, false, true⟩⟩] := by decide +kernel

/-- A REFUSED answer on the line, up to its check. -/
theorem test_answer_bytes :
    (answerBytes 0x10 .refused [BitVec.ofNat 8 RefusedReason.noHold.code]).take 6 =
      [0x5A, 0x00, 0x03, 0x10, 0x03, 0x05] := by decide

/-- A PAUSE on the line is the command PAUSE, and with its check spoiled it is discarded. -/
theorem test_request_bytes :
    requestCommand ([0xA5, 0x00, 0x01, 0x0F] ++ checkBytes [0x00, 0x01, 0x0F]) = .pause ∧
    requestCommand [0xA5, 0x00, 0x01, 0x0F, 0x00, 0x00] = .requestCheckFailed := by decide +kernel

/-- A frame with a bad stop bit fails FRAMING before its check is tried. -/
theorem test_bad_stop_bit :
    testFrame ⟨(from3 (.release 7)).chars, false, false, true⟩ = .framing := by decide +kernel

/-- The widest fields read back: a BEACON with a census of 2, a STATE with a RECOVERY claim, a DRAW entry. -/
theorem test_wide_frames_read_back :
    let b : Frame := ⟨7, .all, .beacon ⟨0xFFFFFFFFFFFFFFFF, 0xFFFF, .isolated⟩
      ⟨4294967295, [0, 0xFFFF], Vector.replicate 8 4294967295, 4294967295, 4294967295, .rebasing⟩⟩
    let c : Frame := ⟨0, .rank 7, .state ⟨0, 0, .active⟩ 0 .starting
      [⟨0xFFFF, .recovery, 4294967295, ⟨255, 255⟩, 16000000⟩, ⟨0, .shift, 0, ⟨0, 0⟩, 0⟩]⟩
    let e : Frame := ⟨3, .all, .entry 4294967295 .draw (-16000000) 0xFFFFFFFF (some 4294967295)⟩
    testFrame (b.wire true true) = .good b ∧ testFrame (c.wire false true) = .good c ∧
      testFrame (e.wire false true) = .good e := by decide +kernel

/-! ## The manual's worked examples, step by step -/

/-- What a command makes of a state. -/
def after (c : Instr) (s : State) : State :=
  match exec c s with
  | .next t => t
  | _ => s

/-- Crossing claims, step 1: 1/7 with ticket (21, 1) and grant set {3}, its CLAIM posted. -/
theorem test_crossing_claims_issue :
    let t := (active.askClaim .dip ⟨5, 7⟩ 400000 501).1
    t.claims.table = [⟨1, 7, .dip, 21, ⟨5, 7⟩, 400000, .requesting [⟨3, .unanswered⟩] 1 ⟨0, 300⟩, some 501⟩] ∧
      t.link.queue = [⟨1, .all, .claim ⟨7, .dip, 21, ⟨5, 7⟩, 400000⟩⟩] ∧ t.account.committed = 400000 := by
  decide +kernel

/-- Station 1 with 1/7 REQUESTING {3}. -/
def requesting : State :=
  withTable [claimOf 1 7 5 7 (.requesting [⟨3, .unanswered⟩] 1 ⟨0, 300⟩)] active

/-- Crossing claims, step 5: 3/12 is DEFERRED, and a DEFER posted to rank 3. -/
theorem test_crossing_claims_defer :
    let t := after .claimTaken (hearing (.claim ⟨12, .dip, 21, ⟨6, 9⟩, 300000⟩) requesting)
    t.claims.table.map (fun e => (e.origin, e.number, e.state)) =
      [(1, 7, .requesting [⟨3, .unanswered⟩] 1 ⟨0, 300⟩), (3, 12, .deferred)] ∧
      t.link.queue = [⟨1, .rank 3, .verdict 12 .defer false⟩] ∧ t.link.rxA = none ∧
      t.account.committed = 700000 := by decide +kernel

/-- Crossing claims, step 8: the last GRANT makes 1/7 HELD. -/
theorem test_crossing_claims_held :
    (after .verdictTaken (hearing (.verdict 7 .grant false) requesting)).claims.table.map (·.state) = [.held] := by
  decide +kernel

/-- A hoist move given up and resumed: 2700 mm at 100 mm/s have 42,500 ms, and no distance has 2000. -/
theorem test_move_times : moveTime 2700 100 = 42500 ∧ moveTime 0 100 = 2000 := by decide

/-- A double dip, steps 7, 9 and 15. -/
theorem test_nested_repeats :
    endTest 6 [⟨5, 6, 2⟩, ⟨3, 6, 2⟩] = ([⟨5, 6, 1⟩, ⟨3, 6, 2⟩], some 5) ∧
    endTest 6 [⟨5, 6, 1⟩, ⟨3, 6, 2⟩] = ([⟨3, 6, 1⟩], some 3) ∧
    endTest 6 [⟨5, 6, 1⟩, ⟨3, 6, 1⟩] = ([], none) := by decide

/-- Acknowledging what was read, step 4: JOB_END goes, HOLD_CHANGE was not in the snapshot and stands. -/
theorem test_acknowledge_example :
    let f := FlagSet.none.raise .jobEnd
    let t := after (.acknowledge 5) { active with port := { active.port with
      flags := f.raise .holdChange, snapshot := f } }
    t.port.flags = FlagSet.none.raise .holdChange ∧ t.port.snapshot = .none ∧
      t.port.answer = some ⟨0x02, .ok, .acknowledged f (FlagSet.none.raise .holdChange)⟩ := by decide +kernel

/-! ## One step of each kind of reaction -/

/-- A checkpoint placed in buffer A is committed at once: the log is OPEN and the array idle. -/
theorem test_checkpoint_commits :
    let t := after .checkpoint active
    t.log.bufA = .committing ⟨1, 0, .checkpoint 5000000 (Vector.replicate 8 0) 1 20⟩ ∧ t.log.op = .program ∧
      t.log.nextSeq = 2 ∧ t.port.answer = some ⟨requestCode .checkpoint, .ok, .checkpointMark true⟩ := by
  decide +kernel

/-- A job submitted to a quiet station is admitted and its claim issued within the event. -/
theorem test_submit_is_admitted :
    let t := after (.submitJob 501 0 5 7 400000 300) (withProgram [⟨.dwell 100, true, .none⟩] active)
    t.jobs.list.map (fun j => (j.tag, j.state, j.claim)) = [(501, .claiming, some ⟨7, false⟩)] ∧
      t.jobs.claimWait = some ⟨0, 300000⟩ ∧ t.log.call = some .a ∧ t.claims.table.length = 1 := by decide +kernel

/-- A MOVE's ARRIVED at its target is accepted, and a late one is not. -/
theorem test_arrived :
    (after (.arrived .lead (-1500)) (moving .lead .moving active)).drive.lead.inFlight = none ∧
    after (.arrived .lead (-1500)) (moving .lead .timedOut active) = moving .lead .timedOut active := by
  decide +kernel

/-- A plant stop latches STOP, posts STOPs, sends the first, and drives the break. -/
theorem test_plant_stop :
    let t := after .stopInputAsserted active
    t.holds.stack.map (·.cls) = [.stop] ∧ t.link.breakDrive = some 1360 ∧ t.drive.lead.waiting = some .stop ∧
      t.drive.busy = true ∧ t.port.flags.holdChange = true := by decide +kernel

/-- The station's clock counts while nothing is pending, and stands in OFFLINE. -/
theorem test_idle_step :
    step active = .next (atTime 1 active) ∧ step State.reset = .next State.reset :=
  ⟨rfl, rfl⟩

/-- The lock table written: the answer counts the section locked. -/
theorem test_lock_sections :
    let t := after (.areaWriteEnd true) (after (.lockSections 2 2) active)
    t.log.locks = 4 ∧ t.flash.locks = .of (lockBytes 4) ∧
      t.port.answer = some ⟨requestCode (.lockSections 2 2), .ok, .count 1⟩ := by decide +kernel

/-- The blank array's three areas are good, and a lock table's flags are read back from its bytes. -/
theorem test_areas :
    (FlashArray.blank.identity.good && FlashArray.blank.config.good && FlashArray.blank.locks.good) = true ∧
    lockBytes 0x8000000000000102 = [2, 1, 0, 0, 0, 0, 0, 0x80] ∧
    lockFlags (lockBytes 0x8000000000000102) = 0x8000000000000102 := by decide +kernel

/-- A REFUSED answer's reason opens its payload, and an ACKNOWLEDGE answers the two masks of R212. -/
theorem test_answer_payloads :
    (Answer.bytes ⟨0x10, .refused, .reason .noHold⟩).take 6 = [0x5A, 0x00, 0x03, 0x10, 0x03, 0x05] ∧
    AnswerPayload.bytes (.acknowledged (FlagSet.none.raise .peerChange) (FlagSet.none.raise .jobEnd)) = [1, 0, 0, 1] ∧
    FlagSet.ofMask (FlagSet.none.raise .peerChange).mask = FlagSet.none.raise .peerChange := by decide +kernel

/-- STALE_PRESENT stays set and in the snapshot while a STALE entry stands. -/
theorem test_acknowledge_stalePresent :
    let s := withTable [claimOf 3 1 6 9 (.stale .granted)] active
    let t := after (.acknowledge 8) { s with port := { s.port with snapshot := s.port.flags } }
    t.port.flags.stalePresent = true ∧ t.port.snapshot.stalePresent = true ∧
      t.port.answer = some ⟨0x02, .ok, .acknowledged .none s.port.flags⟩ := by decide +kernel

/-- An own claim that a departing STALE entry frees is HELD before the new claim is decided, so the new one is
DEFERRED. -/
theorem test_promote_before_verdict :
    let t := after .claimTaken (hearing (.claim ⟨1, .dip, 22, ⟨6, 9⟩, 5⟩)
      (withTable [{ claimOf 1 7 5 7 (.requesting [] 1 ⟨0, 300⟩) with ticket := 30 }, claimOf 3 1 6 9 (.stale .granted)]
        active))
    t.claims.table.map (fun e => (e.origin, e.state)) = [(1, .held), (3, .deferred)] := by decide +kernel

/-- A CLAIM that R1 discards still raises the ticket counter. -/
theorem test_unsound_claim_raises :
    let t := after .claimTaken (hearing (.claim ⟨12, .dip, 99, ⟨6, 16⟩, 5⟩) active)
    t.roster.ticketCounter = 99 ∧ t.claims.table = [] ∧ t.link.rxA = none := by decide +kernel

/-- A RESUME that empties the stack is no report: a job that waits stays as it is. -/
theorem test_resume_tests_no_waiting_job :
    let s := withJob (job .waitBath) active
    let t := after .resume (s.setHolds { s.holds with stack := [⟨.pause, 0, .host, s.context⟩] })
    t.holds.stack = [] ∧ t.jobs.list.map (·.state) = [.waitBath] ∧ t.claims.table = [] := by decide +kernel

/-- A PAUSE over an end lift is discarded at once, and the lift's MOVEs go out again. -/
theorem test_pause_over_end_lift :
    let s := (withJob (job .running) active).setSeq { active.seq with
      activity := .lift, liftFor := some .endLift, slot := some 0 }
    let t := after .pause s
    t.holds.stack = [] ∧ t.holds.pending = [] ∧ t.seq.activity = .lift ∧
      t.drive.lead.waiting = some (.move 1000 150) ∧ t.port.answer.map (·.payload) = some (.disposition .entered) := by
  decide +kernel

/-- A contact level held for 19 ms has no edge yet; held for 20 ms it has. -/
theorem test_contact_filter :
    after (.contactEdge .lead true 81) (atTime 100 active) = atTime 100 active ∧
    (after (.contactEdge .lead true 80) (atTime 100 active)).time.lead.on = true := by decide +kernel

/-- Of two READY records with the last sequence the one made READY first is committed first. -/
theorem test_first_ready_commits_first :
    let r : Record := ⟨4294967295, 0, .entry 1 .charge 5⟩
    let l : LogStore := { active.log with bufA := .ready r, bufB := .ready r, lastReady := some .a }
    l.nextReady = some (.b, r) ∧ ({ l with lastReady := some .b } : LogStore).nextReady = some (.a, r) := by
  decide +kernel

/-! ## Premises that are met: the machine, power and start-up -/

theorem met_StepRunsTheFrontCommand : ({ active with pending := [.status, .pause] } : State).pending =
    .status :: [.pause] := rfl

theorem met_EveryStepAnswers : (active.pending = [] ∧ active.roster.state ≠ .offline) ∧
    State.reset.pending = [] ∧ State.reset.roster.state = .offline := by decide

theorem met_StepKeepsSound : active.Sound ∧ step active = .next (atTime 1 active) :=
  ⟨⟨by decide, by decide, by decide, by decide, by decide, by decide, by decide, by decide, by decide, by decide,
      ⟨by decide, by decide, by decide, by decide, (fun _ h => by cases h), (fun _ h => by cases h)⟩⟩, rfl⟩

theorem met_StepKeepsFormed : active.Formed ∧ step active = .next (atTime 1 active) :=
  ⟨⟨by decide, by decide, by decide, by decide, fun x h => by cases h⟩, rfl⟩

theorem met_StationStateFollowsItsTable : ∃ t, exec .resetAsserted active = .next t ∧
    t.roster.state ≠ active.roster.state := ⟨_, rfl, by decide⟩

theorem met_FramesReadBackWhole : (Payload.claim ⟨0xFFFF, .recovery, 4294967295, ⟨255, 255⟩, 16000000⟩).Fits ∧
    (Payload.entry 4294967295 .draw (-16000000) 0 (some 0)).Fits :=
  ⟨⟨by decide, by decide, by decide, by decide⟩, by decide, by decide, by decide, fun _ h => by cases h; decide⟩

theorem met_ResetPutsEveryBlockInItsResetState : active.log.op = .none ∧
    (∃ t, exec .powerOn active = .next t) ∧
    (∃ t, exec .resetAsserted (active.setLog { active.log with op := .program }) = .next t) ∧
    ∃ t, exec .powerOn (active.setLog { active.log with
      op := .areaWrite, areaWrite := some ⟨.lockTable 1, 0⟩ }) = .next t :=
  ⟨rfl, ⟨_, rfl⟩, ⟨_, rfl⟩, ⟨_, rfl⟩⟩

theorem met_ResetReleasedEntersLoading : State.reset.roster.state = .offline ∧ State.reset.pins.stop = false ∧
    ({ State.reset with pins := ⟨true, false⟩ } : State).roster.state = .offline ∧
    FlashArray.blank.locks.good = true ∧ (⟨List.replicate 8 0, 0⟩ : StoredArea).good = false ∧ 63 < 64 := by
  decide +kernel

/-- The station LOADING over an array's pages, with a lock table. -/
def loading (pages : List (Nat × PageContent)) (locks : BitVec 64) : State :=
  ((inState .loading).setLog { State.reset.log with locks := locks }).setPages pages

/-- A record. -/
def entryRecord (seq : Nat) : PageContent := .record ⟨seq, 0, .entry 1 .charge 5⟩

theorem met_ScanHandsOnAndFindsWhereToWrite :
    ((loading [] 0).roster.state = .loading ∧ (loading [] 0).log.state = .scanning ∧
      newestRecord [] = none ∧ newestCheckpoint [] = none ∧ highestDipId [] < 4294967295) ∧
    newestRecord [(0, entryRecord 1)] = some (0, ⟨1, 0, .entry 1 .charge 5⟩) ∧
    nextEmptyAfter [(0, entryRecord 1)] 0 = some 1 ∧
    newestRecord [(63, entryRecord 4294967295)] = some (63, ⟨4294967295, 0, .entry 1 .charge 5⟩) ∧
    nextEmptyAfter [(63, entryRecord 4294967295)] 63 = none ∧
    ¬ highestDipId [(0, .record ⟨1, 0, .dip { (job .running).newRecord 4294967295 0 0 with endTime := 1 }⟩)] <
      4294967295 ∧
    newestCheckpoint [(4095, .record ⟨2, 0, .checkpoint 9 (Vector.replicate 8 0) 1 3⟩)] =
      some (.checkpoint 9 (Vector.replicate 8 0) 1 3) ∧
    (sectionLocked 1 0 = true ∧ sectionLocked 1 1 = false ∧ sectionLocked 2 (sectionAhead 0) = true ∧
      sectionLocked 2 0 = false) ∧
    (let pages := [(0, entryRecord 4294967295), (1, .invalid), (4, entryRecord 4294967295)];
      pagesWf pages = true ∧ newestRecord pages = some (0, ⟨4294967295, 0, .entry 1 .charge 5⟩) ∧
        highestDipId pages = 0 ∧ newestCheckpoint pages = none ∧ nextEmpty pages 2 0 = none ∧
        nextEmpty pages 3 0 = some 2) ∧
    (∀ p < 64, readPage [] p = none) ∧ readPage [(63, .invalid)] 63 ≠ none := by decide +kernel

theorem met_ScanEndLeavesLoading :
    let s := loading [] 0
    (s.roster.state = .loading ∧ s.log.state = .scanning ∧ s.roster.identity.any (·.checkGood) = true ∧
      s.roster.config ≠ none ∧ s.link.queue.length ≤ 5) ∧
    ({ s with roster := { s.roster with config := none } } : State).roster.config = none ∧
    ({ s with roster := { s.roster with identity := some ⟨0, false⟩ } } : State).roster.identity.any
      (·.checkGood) = false := by decide +kernel

/-! ## Small checks of single operations -/

/-- A frame posted on an idle line is begun; FRAME_SENT removes it, LOST_ARBITRATION is counted and keeps it (R152 to R154),
and the next idle gap begins it again. -/
theorem test_postedFrameBegins :
    let s : State := { active with link := { active.link with lineIdle := true } }
    let t := s.post .all (.release 1)
    t.link.sending = .sending ∧ t.link.lineIdle = false ∧ t.link.queue.length = 1 ∧
      exec .frameSent t = .next { t with link := { t.link with sending := .idle, queue := [] } } ∧
      exec .lostArbitration t =
        .next (({ t with link := { t.link with sending := .idle } } : State).countLink
          .lostArbitration) ∧
      exec .idleGapExpiry t = .next t :=
  ⟨rfl, rfl, rfl, rfl, rfl, rfl⟩

/-- ISOLATED keeps the head only of a queue that is being sent (R150), be it begun at an idle gap or at its posting. -/
theorem test_isolatedKeepsAFrameBeingSent :
    let l : Link := { active.link with queue := [⟨1, .all, .release 1⟩, ⟨1, .all, .release 2⟩] }
    let sent : Link := { l with sending := .sending }
    let idle : State := { active with link := { active.link with lineIdle := true } }
    l.isolate.queue = [] ∧ sent.isolate.queue.length = 1 ∧
      ((idle.post .all (.release 1)).post .all (.release 2)).link.isolate.queue = [⟨1, .all, .release 1⟩] := by
  decide +kernel

/-- The sync check counts the segment's own MOVE, in flight and moving, also when a STOP has taken the place of the same MOVE
issued again, but neither an older one still in flight nor a segment that has not begun to move (R142). -/
theorem test_syncCountsTheSegmentsMoves :
    let c := fun own : Bool => { active.drive.lead with
      inFlight := some ⟨-1500, 100, some 1200, 0, .moving, own, true⟩, report := some ⟨1200, 0, true, 0⟩ }
    let s := walking ⟨.hoist (-1500) 1200 150, true, ⟨false, true, false⟩⟩ .stopped active
    (c true).syncProgress = some 0 ∧ (c false).syncProgress = none ∧ (c true).forget.syncProgress = none ∧
      (((c true).post (.move (-1500) 100)).post .stop).syncProgress = some 0 ∧ (s.setPhase .moving).inSync = true ∧
      (s.setPhase .starting).inSync = false := by decide +kernel

/-- A MOVE of a host lift that a freeze has stopped arrives while a later segment is walked: it sets no mark (R204). A MOVE of
the segment does. -/
theorem test_endedLiftMarksNothing :
    let s := moving .lead .stopping active
    let t := (walking ⟨.dwell 5, true, .none⟩ .stopped s).startSegment ⟨.dwell 5, true, .none⟩
    let f := fun u : State => (u.channel .lead).inFlight
    (f s).map (·.isPresent) = some true ∧ (f t).map (·.isPresent) = some false ∧
      (∀ x ∈ f t, (t.markArrived .lead x).seq.arrivedLead = false) ∧
      (∀ x ∈ f s, (t.markArrived .lead x).seq.arrivedLead = true) := by decide +kernel

/-- A travel MOVE of a SHIFT goes out with its arrived mark clear (R107). -/
theorem test_travelMoveGoesOutUnmarked :
    ((active.setSeq { active.seq with arrivedTravel := true }).issueTravel ⟨4, 5⟩).seq.arrivedTravel = false := by
  decide +kernel

/-- With seq 4,294,967,295 originated and trimmed, a GAP naming it is answered with a GONE (R37, R49, log 53). -/
theorem test_gapForTheLastSeqIsAnswered :
    let s := active.setAccount { active.account with ownNext := 4294967295 }
    let t := s.originate .charge 5 none
    s.latestOwn = 4294967294 ∧ t.account.ownNext = 4294967295 ∧ t.latestOwn = 4294967295 ∧
      ((t.setAccount { t.account with retained := [] }).takeGap 3 4294967295).link.queue.getLast? =
        some ⟨1, .rank 3, .gone 4294967295⟩ := by decide +kernel

/-- A field that may be absent is as long absent as present, and lists go from bottom to top (R113, R212, log 23). -/
theorem test_answerFieldsKeepTheirWidths :
    let r : LastResult := ⟨501, some 9, .done, none, 5, some .none, false⟩
    let full : Peer := ⟨some 3, some 0, some .active, some .synced, some (beacon3 0 0 []), true, some ⟨0, 600⟩, false⟩
    (lastResultBytes none).length = (lastResultBytes (some r)).length ∧
    (lastResultBytes (some { r with dipId := none, reason := some .position, flags := none })).length = 18 ∧
    Peer.reset.bytes.length = full.bytes.length ∧
    (timerBytes none).length = (timerBytes (some ⟨7, 500⟩)).length ∧
    (ClaimEntry.bytes (claimOf 3 1 6 9 .noted)).length = (ClaimEntry.bytes (claimOf 3 1 6 9 (.stale .noted))).length ∧
    (inFlightBytes none).length = (inFlightBytes (some ⟨5, 10, some 1, 0, .moving, true, false⟩)).length ∧
    (JobView.bytes ⟨job .queued, none, none⟩).length = (JobView.bytes ⟨job .waitCells, some 5, some .a⟩).length ∧
    (SavedContext.bytes ⟨.segment, some 1, none, [⟨3, 6, 2⟩, ⟨0, 9, 4⟩], false⟩).drop 8 =
      [2, 0, 9, 4, 3, 6, 2, 0] := by decide +kernel

/-! ## Premises that are met: pins and the kettle link -/

theorem met_PlantStopLatchesAndDrivesTheBreak :
    (active.pins.stop = false ∧ active.roster.state ≠ .offline) ∧
    (({ active with pins := ⟨true, false⟩ } : State).pins.stop = true ∧ State.reset.roster.state = .offline) ∧
    active.Listens ∧ (inState .isolated).Listens ∧ (inState .isolated).roster.state = .isolated ∧
    active.link.inBreak = false ∧
    ({ active with link := { active.link with inBreak := true } } : State).link.inBreak = true :=
  ⟨by decide, by decide, ⟨by decide, by decide⟩, ⟨by decide, by decide⟩, by decide, by decide, by decide⟩

/-- The station with the lead capture armed. -/
def armed : State := active.armCaptures

/-- A DRAIN. -/
def drain (n : Nat) : Segment := ⟨.drain n, true, .none⟩

theorem met_ContactEdgeIsCaptured :
    (active.roster.state ≠ .offline ∧ (active.time.get .lead).on ≠ true ∧ (active.time.get .lead).on = false ∧
      (active.time.get .lead).armed = false) ∧
    (let now := (atTime 100 active).time.clock;
      (timeLater 80 now = false ∧ 20 ≤ (now - 80).toNat) ∧ (timeLater 81 now = false ∧ ¬ 20 ≤ (now - 81).toNat) ∧
      timeLater 101 now = true) ∧
    (armed.time.get .lead).armed = true ∧
    (let s := { armed with time := { armed.time with lead := ⟨true, true, some 5, none⟩ } };
      (s.time.get .lead).on ≠ false ∧ (s.time.get .lead).armed = true) ∧
    (walking (drain 5) .stopped active).activeKind = some (.drain 5) ∧
    active.activeKind = none ∧ Hook.trail ≠ .lead := by decide +kernel

/-- The station with frames waiting to be sent. -/
def queued (n : Nat) : State := { active with link := { active.link with
  queue := List.replicate n ⟨1, .all, .release 1⟩ } }

theorem met_PostingKeepsOrderAndCountersSaturate :
    (active.joined = true ∧ (queued 7).link.queue.length < 8 ∧ active.link.lineIdle = false) ∧
    (let s := { active with link := { active.link with lineIdle := true } };
      s.joined = true ∧ s.link.lineIdle = true ∧ s.link.queue = [] ∧ s.link.queue.length < 8) ∧
    (queued 7).link.queue ≠ [] ∧
    ((queued 8).joined = true ∧ 8 ≤ (queued 8).link.queue.length) ∧
    (inState .isolated).joined = false := by decide +kernel

/-- A frame of any characters between its start and its check, with a good check (R206). -/
def wireOf (body : List Byte) : WireFrame := ⟨0xAA#8 :: body ++ checkBytes body ++ [0x7E#8], true, false, true⟩

/-- A frame whose named rank is 9 has a good check and fails the third test; a destination 9, a kind that the table does not
give, a length that the kind does not allow and a bad stop bit fail the first (R156, R206). -/
theorem test_badFramesAreCounted :
    let vacate := fun dest rank : Byte => wireOf [BitVec.ofNat 8 26, dest, 1, rank]
    testFrame (vacate 0xFF#8 4) = .good ⟨3, .all, .vacate 4⟩ ∧ testFrame (vacate 0xFF#8 9) = .framing ∧
      testFrame (vacate 9 4) = .framing ∧ testFrame (wireOf [BitVec.ofNat 8 31, 0xFF#8, 1, 4]) = .framing ∧
      testFrame (wireOf [BitVec.ofNat 8 26, 0xFF#8, 2, 4, 4]) = .framing ∧
      testFrame { vacate 0xFF#8 4 with stopBitsGood := false } = .framing ∧
      testFrame { vacate 0xFF#8 9 with chars := [0xAA#8, BitVec.ofNat 8 26, 0xFF#8, 1, 9, 0, 0, 0x7E#8] } = .check := by
  decide +kernel

/-- A character 1 that names no kind: FRAMING fails whichever kind is asked (R206). -/
theorem met_noKindHasCodeSeven : ∀ k : FrameKind, k.classCode ≠ (31 / 64, 31 % 8) := by
  intro k
  cases k <;> decide

/-- A frame's characters with the last check byte spoiled. -/
def spoiled (f : Frame) : List Byte := f.chars.dropLast.dropLast ++ [f.chars.dropLast.getLast?.getD 0 + 1, 0x7E#8]

theorem met_FrameEndCountsOrStores :
    let r : HeldFrame := ⟨from3 (.release 7), 4⟩
    let s := { active with link := { active.link with rxA := some r } }
    let u := { active with link := { active.link with rxB := some r } }
    let v := { u with link := { u.link with rxA := some r } }
    active.joined = true ∧ (inState .isolated).roster.state = .isolated ∧
    ((inState .loading).roster.state = .loading ∧ State.reset.roster.state = .offline) ∧
    testFrame ⟨[], true, false, true⟩ = .framing ∧ (⟨[], true, false, true⟩ : WireFrame).chars.length < 4 ∧
    (wireOf [BitVec.ofNat 8 26, 0xFF#8, 1, 9]).chars =
      [0xAA#8, BitVec.ofNat 8 26, 0xFF#8, 1] ++ ([9] ++ checkBytes [BitVec.ofNat 8 26, 0xFF#8, 1, 9] ++ [0x7E#8]) ∧
    FrameKind.classCode .vacate = (26 / 64, 26 % 8) ∧
    testFrame ⟨spoiled (from3 (.release 7)), true, true, true⟩ = .check ∧
    testFrame (Frame.wire ⟨3, .rank 4, .release 7⟩ false true) = .good ⟨3, .rank 4, .release 7⟩ ∧ 4 ≠ active.own ∧
    testFrame (Frame.wire ⟨3, .rank 1, .release 7⟩ true true) = .good ⟨3, .rank active.own, .release 7⟩ ∧
    active.roster.config ≠ none ∧
    testFrame (Frame.wire (from3 (.release 7)) false true) = .good ⟨3, .all, .release 7⟩ ∧
    (active.link.rxA = none ∧ active.link.rxB = none) ∧
    (s.joined = true ∧ s.link.rxA = some r ∧ s.link.rxB = none) ∧
    (u.joined = true ∧ u.link.rxA = none ∧ u.link.rxB = some r) ∧
    v.joined = true ∧ v.link.rxA = some r ∧ v.link.rxB = some r := by decide +kernel

theorem met_HeadFrameContendsAndBreaksEnd :
    let s := queued 1
    let sending := fun x : State => { x with link := { x.link with sending := .sending } }
    (s.roster.state ≠ .offline ∧ s.link.inBreak = false ∧ s.link.breakDrive = none) ∧
    (s.joined = true ∧ s.link.queue ≠ [] ∧ active.joined = true ∧ active.link.queue = []) ∧
    ((inState .isolated).roster.state = .isolated ∧ (inState .loading).roster.state = .loading) ∧
    ({ s with link := { s.link with inBreak := true } } : State).link.inBreak = true ∧
    ({ s with link := { s.link with breakDrive := some 1 } } : State).link.breakDrive ≠ none ∧
    ((sending s).link.sending = .sending ∧ (sending s).roster.state ≠ .isolated ∧
      (sending (inState .isolated)).link.sending = .sending ∧
      (sending (inState .isolated)).roster.state = .isolated ∧ s.link.sending = .idle) := by decide +kernel

/-! ## Premises that are met: the Roster -/

/-- The state with a peer record. -/
def withPeer (r : Rank) (p : Peer) (s : State) : State := s.setPeer r p

theorem met_RosterEndsTheDispatch :
    let own : Frame := ⟨1, .all, .release 1⟩
    let put := fun (f : Frame) (s : State) => { s with link := { s.link with rxA := some ⟨f, 0⟩ } }
    let s := put own (inState .listening)
    let u := put own active
    let alien := from3 (.join ⟨3, 8, .active⟩)
    let twin := from3 (.join ⟨9, 7, .active⟩)
    let out := withPeer 3 { livePeer 3 with excluded := true } active
    (s.joined = true ∧ s.link.oldest = some (.a, own) ∧ own.origin = s.own ∧ s.roster.state = .listening) ∧
    (u.link.oldest = some (.a, own) ∧ u.roster.state = .active ∧ u.roster.clashed = false) ∧
    ({ u with roster := { u.roster with clashed := true } } : State).roster.clashed = true ∧
    ((put alien active).link.oldest = some (.a, alien) ∧ alien.origin ≠ active.own ∧
      alien.payload.identity? = some ⟨3, 8, .active⟩ ∧ (8 : BitVec 16) ≠ active.roster.digest ∧
      active.roster.peers[alien.origin].live = true) ∧
    (let p := { Peer.reset with excluded := true };
      (withPeer 3 p active).roster.peers[alien.origin] = p ∧ (withPeer 3 .reset active).roster.peers[alien.origin] =
        .reset ∧ p.live = false ∧ Peer.reset.excluded = false) ∧
    (twin.payload.identity? = some ⟨9, 7, .active⟩ ∧ (7 : BitVec 16) = active.roster.digest ∧
      active.roster.peers[twin.origin].uniqueId ≠ some 9) ∧
    (from3 (.release 1)).payload.identity? = none ∧ out.roster.peers[(3 : Rank)].excluded = true := by decide +kernel

theorem met_TakenFrameIsRecorded :
    let b := from3 (.beacon id3 (beacon3 0 0 []))
    ((from3 (.release 1)).payload.identity? = none) ∧
    (b.payload.identity? = some id3 ∧ b.payload.account? = some .synced ∧ b.payload.beacon? = some (beacon3 0 0 [])) ∧
    ((from3 (.join id3)).payload.account? = none ∧ (from3 (.join id3)).payload.beacon? = none) ∧
    (active.roster.peers[(3 : Rank)].live = true ∧ State.reset.roster.peers[(3 : Rank)].live = false ∧
      id3.state = .active) ∧
    (from3 (.join ⟨3, 7, .isolated⟩)).payload.identity? = some ⟨3, 7, .isolated⟩ := by decide +kernel

theorem met_SilentRankDepartsAndItsEntriesBecomeStale :
    let s := atTime 600 active
    (s.roster.peers[(3 : Rank)].silence = some ⟨0, 600⟩ ∧ (⟨0, 600⟩ : Timer).due s.time.clock = true ∧
      s.roster.peers[(3 : Rank)].live = true ∧ s.applying = true ∧ s.account.gaps[(3 : Rank)] = none) ∧
    (s.setGap 3 (some ⟨5, 0⟩)).account.gaps[(3 : Rank)].isSome = true ∧
    (inAccount .rebasing s).applying = false ∧
    (let u := withPeer 5 { Peer.reset with silence := some ⟨0, 600⟩ } s;
      u.roster.peers[(5 : Rank)].silence = some ⟨0, 600⟩ ∧ u.roster.peers[(5 : Rank)].live = false) ∧
    [claimOf 3 1 6 9 .noted, claimOf 3 1 6 9 .deferred, claimOf 3 1 6 9 .granted].map (·.origin) = [3, 3, 3] := by
  decide +kernel

/-- The station at the end of its join window. -/
def joining : State :=
  let s := inState .listening
  atTime 600 { s with roster := { s.roster with joinWindow := some ⟨0, 600⟩ } }

theorem met_BeaconIsPostedAndJoinEndsActive :
    let high := at' .lead 1000 (at' .trail 1000 joining)
    let alone := fun s : State => withPeer 3 .reset (withPeer 4 .reset s)
    (let s := atTime 200 { active with roster := { active.roster with beaconTimer := some ⟨0, 200⟩ } };
      s.roster.beaconTimer = some ⟨0, 200⟩ ∧ (⟨0, 200⟩ : Timer).due s.time.clock = true) ∧
    (joining.roster.state = .listening ∧ joining.roster.joinWindow = some ⟨0, 600⟩ ∧
      (⟨0, 600⟩ : Timer).due joining.time.clock = true ∧ joining.syncedPeer = some 3 ∧ joining.bothClear = false) ∧
    (high.roster.state = .listening ∧ high.roster.joinWindow = some ⟨0, 600⟩ ∧
      (⟨0, 600⟩ : Timer).due high.time.clock = true ∧ high.syncedPeer = some 3 ∧ high.bothClear = true) ∧
    ((alone joining).roster.joinWindow = some ⟨0, 600⟩ ∧ (alone joining).syncedPeer = none ∧
      (alone joining).bothClear = false) ∧
    ((alone high).roster.joinWindow = some ⟨0, 600⟩ ∧ (alone high).syncedPeer = none ∧
      (alone high).bothClear = true) ∧
    (withPeer 3 { livePeer 3 with account := some .gapped } joining).syncedPeer = some 4 := by decide +kernel

/-- An own RECOVERY claim over the whole reach. -/
def recoveryEntry : ClaimEntry := { claimOf 1 8 0 7 .held with kind := .recovery, reservation := 0 }

theorem met_IsolationAndRecoveryAct :
    let high := at' .lead 1000 (at' .trail 1000 active)
    active.conf.reach[active.own] = some ⟨0, 7⟩ ∧
    (active.aboveClear .lead = false ∧ high.aboveClear .lead = true ∧ high.aboveClear .trail = true) ∧
    ((at' .lead 999 active).aboveClear .lead = false ∧ active.roster.peers[(3 : Rank)].live = true ∧
      active.roster.peers[(2 : Rank)].live = false) ∧
    (∀ e ∈ requesting.claims.table, e.origin = requesting.own → e.kind ≠ .recovery) ∧
    (withTable [recoveryEntry] high).aboveClear .lead = true ∧ (withTable [recoveryEntry] high).aboveClear .trail = true ∧
    ((withTable [recoveryEntry] high).claims.table.find? fun e =>
      e.origin == (withTable [recoveryEntry] high).own && e.kind == .recovery) = some recoveryEntry := by
  decide +kernel

/-! ## Premises that are met: claims -/

theorem met_TicketsAreStrictlyOrdered :
    (ticketEarlier 4294967294 7 4294967295 0 = true ∧ ticketEarlier 4294967295 0 4294967295 1 = true) ∧
    (0 : Rank) ≠ 7 := by decide +kernel

/-- A STALE entry over [6, 9]. -/
def staleEntry : ClaimEntry := claimOf 3 1 6 9 (.stale .granted)

theorem met_ClaimRequestIsTestedThenIssued :
    ClaimKind.dip ≠ .recovery ∧ (inState .listening).roster.state ≠ .active ∧
    (active.roster.state = .active ∧ (withTable [claimOf 1 7 0 1 .held, claimOf 1 8 2 3 .held] active).claims.table.length
      = 2) ∧
    (withinReach (active.reachOf active.own) ⟨0, 7⟩ = true ∧ withinReach (active.reachOf active.own) ⟨7, 8⟩ = false) ∧
    (inAccount .gapped active).account.state ≠ .synced ∧
    ((∀ e ∈ (withTable [staleEntry] active).claims.table, e.isStale = true → e.span.overlaps ⟨0, 5⟩ = false) ∧
      staleEntry.span.overlaps ⟨0, 6⟩ = true) ∧
    ((active.conf.floor : Int) = active.account.balance - reservations active.claims.table - 4900000) ∧
    (active.issueRefusal .dip ⟨0, 7⟩ 4900000 = none ∧ active.issueRefusal .shift ⟨0, 3⟩ 0 = none ∧
      reachMeets active.conf.reach[(3 : Rank)] ⟨0, 3⟩ = false ∧
      reachMeets active.conf.reach[(3 : Rank)] ⟨0, 4⟩ = true) := by decide +kernel

/-- Rank 3's claim 3/12 (01). -/
def claim12 (last reservation : Nat) : ListedClaim := ⟨12, .dip, 21, ⟨6, last⟩, reservation⟩

theorem met_NewClaimIsDecided :
    (∀ s ∈ [active, requesting], ∀ c ∈ [claim12 9 4900000, claim12 9 4900001, claim12 15 5, claim12 16 5],
      (hearing (.claim c) s).Hears .a (from3 (.claim c)) ∧
      (hearing (.claim c) s).entryOf 3 c.number = none) ∧
    (active.claimSound 3 ⟨6, 16⟩ = false ∧ active.claimSound 3 ⟨6, 15⟩ = true ∧ active.meets ⟨8, 9⟩ = false ∧
      active.meets ⟨7, 9⟩ = true) ∧
    (active.account.balance : Int) - reservations [] - 4900001 < active.conf.floor ∧
    ((∃ o ∈ requesting.claims.table, o.origin = requesting.own ∧ o.span.overlaps ⟨6, 9⟩ = true ∧
      o.isRequesting = true ∧ ticketEarlier o.ticket o.origin 21 3 = true)) ∧
    active.claims.table = [] := by
  refine ⟨fun s hs c hc => ?_, by decide +kernel⟩
  simp only [List.mem_cons, List.not_mem_nil, or_false] at hs hc
  rcases hs with rfl | rfl <;> rcases hc with rfl | rfl | rfl | rfl <;>
    exact ⟨hears (by decide +kernel), by decide +kernel⟩

/-- The station hears CLAIM 3/12 again, its entry in some state. -/
def repeated (st : ClaimState) (first : Nat) : State :=
  hearing (.claim (claim12 9 300000)) (withTable [{ claimOf 3 12 first 9 st with ticket := 21 }] active)

theorem met_RepeatedAndRecoveryClaimsAreTaken :
    ((hearing (.claim (claim12 16 5)) active).Hears .a (from3 (.claim (claim12 16 5))) ∧
      (hearing (.claim (claim12 16 5)) active).claimSound 3 ⟨6, 16⟩ = false) ∧
    (∀ st ∈ [ClaimState.deferred, .granted, .noted, .stale .deferred, .stale .granted, .stale .noted],
      (repeated st 6).Hears .a (from3 (.claim (claim12 9 300000))) ∧
      (repeated st 6).claimSound 3 ⟨6, 9⟩ = true ∧
      (repeated st 6).entryOf 3 12 = some { claimOf 3 12 6 9 st with ticket := 21 }) ∧
    ((repeated .noted 6).meets ⟨6, 9⟩ = true ∧ (repeated .noted 8).meets ⟨8, 9⟩ = false ∧
      (repeated .noted 8).entryOf 3 12 = some { claimOf 3 12 8 9 .noted with ticket := 21 }) ∧
    (let e := { claimOf 3 12 6 9 .granted with kind := .recovery, ticket := 21 };
      (hearing (.claim (claim12 9 300000)) (withTable [e] active)).Hears .a (from3 (.claim (claim12 9 300000))) ∧
      (withTable [e] active).entryOf 3 12 = some e) ∧
    (let c : ListedClaim := ⟨13, .recovery, 22, ⟨7, 9⟩, 0⟩;
      let s := withTable [claimOf 1 7 5 7 .held] active;
      (hearing (.claim c) active).Hears .a (from3 (.claim c)) ∧ active.ownHeldOverlaps ⟨7, 9⟩ = false ∧
      (hearing (.claim c) s).Hears .a (from3 (.claim c)) ∧ s.ownHeldOverlaps ⟨7, 9⟩ = true ∧
      s.entryOf 3 13 = none ∧ s.claimSound 3 ⟨7, 9⟩ = true) ∧
    (let t := [claimOf 3 1 4 5 .granted, claimOf 3 2 6 7 .granted];
      (t.filter fun e => e.origin == 3 && e.number != 3) = t ∧
      (t.filter fun e => e.origin == 3 && e.number != 2).length < 2) := by
  refine ⟨⟨hears (by decide +kernel), by decide +kernel⟩, fun st hs => ?_, by decide +kernel,
    ⟨hears (by decide +kernel), by decide +kernel⟩,
    ⟨hears (by decide +kernel), by decide +kernel, hears (by decide +kernel), by decide +kernel⟩, by decide +kernel⟩
  simp only [List.mem_cons, List.not_mem_nil, or_false] at hs
  rcases hs with rfl | rfl | rfl | rfl | rfl | rfl <;> exact ⟨hears (by decide +kernel), by decide +kernel⟩

/-- An own claim whose grant set is empty. -/
def ungranted (number : BitVec 16) (first last : Nat) : ClaimEntry :=
  claimOf 1 number first last (.requesting [] 1 ⟨0, 300⟩)

theorem met_VerdictIsCollected :
    ((hearing (.verdict 7 .defer false) requesting).Hears .a (from3 (.verdict 7 .defer false)) ∧
      requesting.entryOf requesting.own 7 =
        some (claimOf 1 7 5 7 (.requesting [⟨3, .unanswered⟩] 1 ⟨0, 300⟩)) ∧
      active.entryOf active.own 7 = none) ∧
    (let s := atTime 300 requesting;
      s.entryOf s.own 7 = some (claimOf 1 7 5 7 (.requesting [⟨3, .unanswered⟩] 1 ⟨0, 300⟩)) ∧
      (⟨0, 300⟩ : Timer).due s.time.clock = true) ∧
    (let s := atTime 300 (withTable [claimOf 1 7 5 7 (.requesting [⟨3, .deferred⟩] 65535 ⟨0, 300⟩)] active);
      s.entryOf s.own 7 = some (claimOf 1 7 5 7 (.requesting [⟨3, .deferred⟩] 65535 ⟨0, 300⟩)) ∧
      (⟨0, 300⟩ : Timer).due s.time.clock = true) ∧
    (let asks := { job .claiming with claim := some ⟨7, false⟩ };
      let shifts := { job .running with claim := some ⟨6, true⟩, shiftClaim := some ⟨7, false⟩ };
      let s := (withJob shifts active).setSeq { active.seq with activity := .segment, phase := some .negotiating };
      active.activeJob = none ∧ (withJob asks active).activeJob = some asks ∧ s.activeJob = some shifts ∧
      s.seq.activity = .segment ∧ s.seq.phase = some .negotiating ∧
      (withJob shifts active).seq.activity ≠ .segment ∧ (withJob (job .running) active).activeJob = some (job .running)) ∧
    (withTable [ungranted 7 5 7] active).promote.isSome = true ∧
    (withTable [ungranted 7 5 7, staleEntry] active).Settled ∧
    (let free := fun (s : State) (e : ClaimEntry) => e.origin = s.own ∧ (∃ n w, e.state = .requesting [] n w) ∧
        ∀ x ∈ s.claims.table, x.isStale = true → x.span.overlaps e.span = false;
      let s := withTable [ungranted 7 5 7, ungranted 8 0 1] active;
      (∀ e ∈ active.claims.table, ¬free active e) ∧
      (withTable [ungranted 7 5 7] active).claims.table = [] ++ ungranted 7 5 7 :: [] ∧
      free (withTable [ungranted 7 5 7] active) (ungranted 7 5 7) ∧
      s.claims.table = [] ++ ungranted 7 5 7 :: ([] ++ ungranted 8 0 1 :: []) ∧ free s (ungranted 7 5 7) ∧
      free s (ungranted 8 0 1)) := by
  refine ⟨⟨hears (by decide +kernel), by decide +kernel, by decide +kernel⟩, by decide +kernel, by decide +kernel,
    by decide +kernel, by decide +kernel, rfl, (fun e h => by cases h), rfl, ⟨by decide, ⟨1, ⟨0, 300⟩, rfl⟩, ?_⟩, rfl,
    ⟨by decide, ⟨1, ⟨0, 300⟩, rfl⟩, ?_⟩, ⟨by decide, ⟨1, ⟨0, 300⟩, rfl⟩, ?_⟩⟩ <;> decide +kernel

theorem met_VacateRemovesStaleEntries :
    ((hearing (.vacate 4) active).Hears .a (from3 (.vacate 4)) ∧ (4 : Rank) ≠ active.own) ∧
    ((hearing (.vacate 1) active).Hears .a (from3 (.vacate 1)) ∧ (1 : Rank) = active.own) ∧
    (active.Listens ∧ active.conf.reach[(4 : Rank)] ≠ none ∧ active.conf.reach[(0 : Rank)] = none) ∧
    ((inState .listening).Listens ∧ (inState .listening).roster.state ≠ .active) ∧
    ∀ r : Rank, r.val ≠ 8 :=
  ⟨⟨hears (by decide +kernel), by decide⟩, ⟨hears (by decide +kernel), by decide⟩,
    ⟨⟨by decide, by decide⟩, by decide, by decide⟩, ⟨⟨by decide, by decide⟩, by decide⟩, by decide⟩

theorem met_StateSweepsAndJoinIsAnswered :
    let p := fun l => Payload.state id3 20 .synced l
    let known := withTable [{ claimOf 3 12 6 9 .granted with ticket := 21 }] active
    let mine := withTable [claimOf 1 7 5 7 .held] active
    let two := [claim12 16 5, ⟨13, .recovery, 22, ⟨7, 9⟩, 0⟩]
    (∀ l ∈ [[], [claim12 9 5], two], (hearing (p l) known).Hears .a (from3 (p l))) ∧
    (known.claimSound 3 (claim12 16 5).span = false ∧ known.claimSound 3 (claim12 9 5).span = true) ∧
    ((∃ e ∈ known.claims.table, e.origin = 3 ∧ e.number = 12 ∧ e.ticket = 21 ∧ e.isStale = false) ∧
      ∀ e ∈ active.claims.table, e.origin ≠ 3) ∧
    ((claim12 9 5).kind ≠ .recovery ∧ active.meets ⟨6, 9⟩ = true ∧ active.meets ⟨8, 9⟩ = false) ∧
    (mine.claimSound 3 ⟨7, 9⟩ = true ∧ mine.ownHeldOverlaps ⟨7, 9⟩ = true ∧ active.ownHeldOverlaps ⟨7, 9⟩ = false) ∧
    (hearing (.join id3) active).Hears .a (from3 (.join id3)) := by
  refine ⟨fun l hl => ?_, by decide +kernel, ⟨?_, ?_⟩, by decide +kernel, by decide +kernel, hears (by decide +kernel)⟩
  · simp only [List.mem_cons, List.not_mem_nil, or_false] at hl
    rcases hl with rfl | rfl | rfl <;> exact hears (by decide +kernel)
  all_goals decide +kernel

theorem met_EndedClaimIsReleasedAndDeferredOnesDecided :
    (active.entryOf active.own 7 = none ∧ (requesting.entryOf requesting.own 7).isSome = true) ∧
    ((hearing (.release 12) active).Hears .a (from3 (.release 12)) ∧ (hearing (.release 12) active).entryOf 3 12 = none) ∧
    ((hearing (.release 12) (withTable [claimOf 3 12 6 9 .granted] active)).Hears .a (from3 (.release 12)) ∧
      ((withTable [claimOf 3 12 6 9 .granted] active).entryOf 3 12).isSome = true) ∧
    (let late := { claimOf 3 12 6 9 .deferred with ticket := 22 };
      let early := claimOf 4 2 6 9 (.stale .deferred);
      [early, late].Perm ([late, early].filter fun e => e.state == .deferred || e.state == .stale .deferred) ∧
      [early, late].Pairwise (fun a b => a.earlier b = true)) ∧
    (let s := withTable [claimOf 3 12 6 9 .deferred] active;
      let low := fun n => s.setAccount { s.account with balance := n };
      (((low 499999).account.balance : Int) - reservations s.claims.table < s.conf.floor) ∧
      ¬((low 500000).account.balance : Int) - reservations s.claims.table < s.conf.floor) ∧
    (let own := ungranted 7 5 7;
      own.span.overlaps ⟨6, 9⟩ = true ∧ own.isRequesting = true ∧ own.earlier (claimOf 3 12 6 9 .deferred) = true) :=
  ⟨by decide +kernel, ⟨hears (by decide +kernel), by decide +kernel⟩, ⟨hears (by decide +kernel), by decide +kernel⟩,
    ⟨List.Perm.swap _ _ _, by decide +kernel⟩, by decide +kernel, by decide +kernel⟩

/-! ## Premises that are met: the account -/

theorem met_AmountIsAppliedAndEntryOriginated :
    (let exact := fun amount : Int => (active.account.balance : Int) + amount;
      exact (-5000001) < 0 ∧ 0 ≤ exact (-5000000) ∧ exact 4289967295 ≤ 4294967295 ∧ 4294967295 < exact 4289967296) ∧
    (62 + 1 < 64 ∧ 64 ≤ 63 + 1) ∧
    (let s := (withJob (job .running) active).setAccount { active.account with balance := 99999 };
      s.account.balance < s.conf.floor ∧ s.runningJob ≠ none ∧ active.runningJob = none ∧
        active.conf.floor ≤ active.account.balance) ∧
    (16000000 ≤ 16000000 ∧ 16000000 < 16000001) := by decide +kernel

/-- The station with both record buffers in use. -/
def full : State :=
  active.setLog { active.log with
    bufA := .ready ⟨1, 0, .entry 1 .charge 5⟩, bufB := .committing ⟨2, 0, .entry 2 .charge 5⟩ }

theorem met_HostEntryAndCheckpointAreTested :
    active.Listens ∧ (inState .listening).Listens ∧
    (Int.natAbs 1 = 1 ∧ Int.natAbs (-16000000) = 16000000 ∧ ¬ 1 ≤ Int.natAbs 0 ∧ ¬ Int.natAbs 16000001 ≤ 16000000) ∧
    ((inAccount .rebasing active).account.state = .rebasing ∧ (inAccount .rebasing active).applying = false) ∧
    (active.log.state ≠ .full ∧ active.log.state ≠ .fault ∧ active.log.freeBuffer = some .a) ∧
    (full.log.freeBuffer = none ∧ full.roster.state = .active ∧ full.applying = true) ∧
    full.Listens := by
  refine ⟨⟨?_, ?_⟩, ⟨?_, ?_⟩, ?_, ?_, ?_, ?_, ?_, ?_⟩ <;> decide +kernel

/-- Rank 3's entry. -/
def entry3 (seq : Nat) : Entry := ⟨3, seq, .charge, 5, 0, none⟩

/-- The station hears it. -/
def hearsEntry (seq : Nat) (s : State) : State := hearing (.entry seq .charge 5 0 none) s

theorem met_ReceivedEntryGoesByItsSeq :
    (∀ s ∈ [active, active.setGap 3 (some ⟨2, 0⟩), inAccount .rebasing active], ∀ n ∈ [0, 1, 2],
      (hearsEntry n s).Hears .a (from3 (.entry n .charge 5 0 none))) ∧
    ((entry3 0).sound = false ∧ (entry3 1).sound = true) ∧
    (active.applying = true ∧ active.account.applied[(3 : Rank)] + 1 = 1 ∧
      (active.setApplied 3 1).account.applied[(3 : Rank)] + 1 = 2) ∧
    ((∀ x ∈ active.account.holding, x.origin ≠ 3) ∧ active.account.gaps[(3 : Rank)] = none ∧
      active.account.state = .synced) ∧
    (active.setGap 3 (some ⟨2, 0⟩)).account.gaps[(3 : Rank)] = some ⟨2, 0⟩ ∧
    (inAccount .rebasing active).applying = false ∧
    (let s := active.setAccount { active.account with
        state := .gapped, holding := [entry3 1], gaps := active.account.gaps.set (3 : Rank) (some ⟨1, 0⟩) };
      (s.account.holding.find? fun x => x.origin == 3 && x.seq == s.account.applied[(3 : Rank)] + 1) =
        some (entry3 1) ∧
      s.applying = true ∧ s.account.state = .gapped) ∧
    (active.account.holding.find? fun x => x.origin == 3 && x.seq == active.account.applied[(3 : Rank)] + 1) = none ∧
    (∀ (e : Entry) (t : State), (t.setApplied e.origin e.seq).account.holding = t.account.holding) ∧
    (let s := (inAccount .gapped active).setApplied 3 1;
      s.account.state = .gapped ∧ s.account.holding = [] ∧
      ∀ q : Rank, (s.account.gaps.set (3 : Rank) none)[q] = none) := by
  refine ⟨fun s hs n hn => ?_, by decide +kernel, by decide +kernel, by decide +kernel, by decide +kernel,
    by decide +kernel, by decide +kernel, by decide +kernel, fun _ _ => rfl, by decide +kernel⟩
  simp only [List.mem_cons, List.not_mem_nil, or_false] at hs hn
  rcases hs with rfl | rfl | rfl <;> rcases hn with rfl | rfl | rfl <;> exact hears (by decide +kernel)

/-- The station with no live peer. -/
def alone (s : State) : State := withPeer 3 .reset (withPeer 4 .reset s)

/-- The station with an own entry retained. -/
def retaining (seq : Nat) : State :=
  active.setAccount { active.account with ownNext := seq + 1, retained := [⟨1, seq, .charge, 5, 0, none⟩] }

theorem met_GapsAreServedAndRebasesAsk :
    ((hearing (.gap 3) (retaining 3)).Hears .a (from3 (.gap 3)) ∧ (retaining 3).latestOwn = 3) ∧
    (hearing (.gap 2) (retaining 3)).Hears .a (from3 (.gap 2)) ∧
    (hearing (.gap 4) (retaining 3)).Hears .a (from3 (.gap 4)) ∧
    (hearing (.gap 0) (retaining 3)).Hears .a (from3 (.gap 0)) ∧
    (let s := active.setAccount { active.account with ownNext := 4 };
      (hearing (.gap 3) s).Hears .a (from3 (.gap 3)) ∧ s.latestOwn = 3 ∧ s.account.retained = []) ∧
    ((hearing (.gone 1) active).Hears .a (from3 (.gone 1)) ∧ active.account.gaps[(3 : Rank)] = none) ∧
    (let s := active.setGap 3 (some ⟨2, 0⟩);
      (hearing (.gone 2) s).Hears .a (from3 (.gone 2)) ∧ (hearing (.gone 1) s).Hears .a (from3 (.gone 1)) ∧
      s.applying = true ∧ s.account.gaps[(3 : Rank)] ≠ none ∧ s.account.applied[(3 : Rank)] + 1 < 2) ∧
    ((active.syncedPeer = some 3 ∧ (alone active).syncedPeer = none) ∧ active.account.ownSpent = false ∧
      ({ active.account with ownSpent := true } : Account).ownSpent = true) ∧
    ∀ s ∈ [active, alone active],
      let u := atTime 500 (s.setAccount { s.account with fetchTimer := some ⟨0, 500⟩ })
      u.account.fetchTimer = some ⟨0, 500⟩ ∧ (⟨0, 500⟩ : Timer).due u.time.clock = true :=
  ⟨⟨hears (by decide +kernel), by decide +kernel⟩, hears (by decide +kernel), hears (by decide +kernel),
    hears (by decide +kernel), ⟨hears (by decide +kernel), by decide +kernel⟩,
    ⟨hears (by decide +kernel), by decide +kernel⟩, ⟨hears (by decide +kernel), hears (by decide +kernel),
    by decide +kernel⟩, by decide +kernel, by decide +kernel⟩

theorem met_FetchIsServedWhenSynced :
    ((hearing (.fetch 9) active).Hears .a (from3 (.fetch 9)) ∧ active.account.state = .synced) ∧
    ((hearing (.fetch 9) (inAccount .gapped active)).Hears .a (from3 (.fetch 9)) ∧
      (inAccount .gapped active).account.state ≠ .synced) ∧
    (inState .isolated).roster.state = .isolated :=
  ⟨⟨hears (by decide +kernel), rfl⟩, ⟨hears (by decide +kernel), by decide⟩, rfl⟩

theorem met_SnapshotIsTaken :
    let p := fun n => Payload.snapshot n 100000 (Vector.replicate 8 0)
    let s := inAccount .rebasing active
    let loaded := s.setAccount { s.account with
      ownNext := 3, retained := [⟨1, 2, .charge, 5, 0, none⟩], holding := [entry3 1, entry3 3]
      deferredDraw := some ⟨9, 1⟩ }
    ((hearing (p 0) s).Hears .a (from3 (p 0)) ∧ s.account.state = .rebasing ∧ 0 = s.account.rebaseNumber ∧
      s.account.retained = [] ∧ s.account.holding = [] ∧ s.account.deferredDraw = none ∧ s.conf.floor ≤ 100000) ∧
    ((hearing (p 0) loaded).Hears .a (from3 (p 0)) ∧ loaded.account.state = .rebasing ∧
      0 = loaded.account.rebaseNumber ∧ 0 + 1 < 2) ∧
    ((hearing (p 1) s).Hears .a (from3 (p 1)) ∧ 1 ≠ s.account.rebaseNumber) ∧
    ((hearing (p 0) active).Hears .a (from3 (p 0)) ∧ active.account.state ≠ .rebasing) :=
  ⟨⟨hears (by decide +kernel), by decide +kernel⟩, ⟨hears (by decide +kernel), by decide +kernel⟩,
    ⟨hears (by decide +kernel), by decide +kernel⟩, hears (by decide +kernel), by decide +kernel⟩

theorem met_BeaconSweepsAndChecksGapsAndSplit :
    let p := Payload.beacon id3 (beacon3 0 5000000 [])
    let s := fun n => withTable [{ claimOf 3 12 6 9 .granted with ticket := n }] active
    let g := fun t => active.setGap 3 (some ⟨2, t⟩)
    ((hearing p (s 20)).Hears .a (from3 p) ∧ (hearing p (s 19)).Hears .a (from3 p)) ∧
    ((beacon3 0 5000000 []).ticketCounter = 20 ∧ ((s 19).claims.table.all fun e => decide (e.ticket < 20)) = true ∧
      ((s 20).claims.table.any fun e => decide (e.ticket < 20)) = false) ∧
    (active.roster.peers[(3 : Rank)].live = true ∧ (inAccount .starting active).applying = false ∧
      active.applying = true ∧ active.account.gaps[(3 : Rank)] = none) ∧
    ((beacon3 0 0 []).ownSeq ≤ active.account.applied[(3 : Rank)] ∧
      active.account.applied[(3 : Rank)] < (beacon3 1 0 []).ownSeq) ∧
    ((g 0).account.gaps[(3 : Rank)] = some ⟨2, 0⟩ ∧ (g 0).conf.beaconPeriod ≤ ((200 : Time) - 0).toNat ∧
      ((199 : Time) - 0).toNat < (g 0).conf.beaconPeriod) ∧
    ((beacon3 0 4999999 []).applied = active.account.applied ∧
      (beacon3 0 4999999 []).balance ≠ active.account.balance ∧ (beacon3 0 0 []).account = .synced) ∧
    (0 < active.own ∧ ¬ 3 < active.own) ∧
    (active.livePeers = [3, 4] ∧ active.peerSeen 3 = 0 ∧
      (withPeer 3 { livePeer 3 with beacon := some { beacon3 0 0 [] with applied := Vector.replicate 8 5 } }
        active).peerSeen 3 = 5) :=
  ⟨⟨hears (by decide +kernel), hears (by decide +kernel)⟩, by decide +kernel⟩

/-! ## Premises that are met: holds -/

/-- The station with a class at the top of its hold stack. -/
def held (c : HoldClass) (s : State) : State :=
  s.setHolds { s.holds with stack := [⟨c, 0, .host, s.context⟩] }

/-- The station in its end lift. -/
def ending : State :=
  (withJob (job .running) active).setSeq { active.seq with activity := .lift, liftFor := some .endLift }

theorem met_HoldCauseEntersByItsClass :
    (held .pause active).standing .pause = true ∧
    (active.setHolds { active.holds with pending := [⟨.pause, .host, 0⟩] }).isPending .pause = true ∧
    (active.runningJob = none ∧ (withJob { job .running with abort := some .bath } active).runningJob =
      some { job .running with abort := some .bath }) ∧
    (active.holds.pending = [] ∧ active.standing .stop = false ∧ active.runningJob.any (·.cancelPending) = false) ∧
    (HoldClass.stop.code < HoldClass.drive.code ∧ ¬ HoldClass.pause.code < HoldClass.bath.code) ∧
    ((held .pause active).holds.stack = [⟨.pause, 0, .host, active.context⟩] ∧
      (held .pause active).standing .conflict = false) ∧
    active.seq.hostLift ≠ .lifting ∧
    (let s := walking (drain 5) (.running ⟨0, 5⟩) active;
      s.holds.pending = [] ∧ s.standing .bath = false ∧ s.runningJob = some (job .running) ∧
        (job .running).cancelPending = false ∧ (job .running).abort = none ∧ s.seq.activity ≠ .lift ∧
        s.holds.stack = []) ∧
    ((moving .travel .moving active).channel .travel).moveInFlight = true ∧
    (let s := ending;
      s.seq.activity = .lift ∧ s.seq.liftFor = some .endLift ∧ s.holds.stack = [] ∧ s.holds.pending = [] ∧
        s.seq.hostLift ≠ .lifting ∧ s.runningJob.any (·.cancelPending) = false) ∧
    (active.seq.activity ≠ .lift ∧ 4 ≤ (active.setHolds { active.holds with recorded := 4 }).holds.recorded) ∧
    (let s := held .stop (withJob { job .running with cancelPending := true } active);
      s.standing .bath = false ∧ s.isPending .bath = false ∧ HoldClass.stop.code ≤ HoldClass.bath.code ∧
        s.runningJob = some { job .running with cancelPending := true }) ∧
    (let s := held .stop (withJob (job .running) active);
      s.holds.pending = [] ∧ s.runningJob.any (·.cancelPending) = false ∧ HoldClass.stop.code ≤ HoldClass.program.code) ∧
    ((walking (drain 5) .stopped active).seq.activity = .segment ∧ active.seq.activity ≠ .segment) ∧
    (let p : PendingHold := ⟨.program, .host, 0⟩;
      let q : PendingHold := ⟨.conflict, .host, 0⟩;
      [q, p] = [q] ++ p :: [] ∧ (∀ x ∈ [q] ++ ([] : List PendingHold), p.cls.code < x.cls.code) ∧
        p.cls.code < HoldClass.pause.code ∧ HoldClass.drive.code ≤ p.cls.code ∧ q.cls ≠ .program ∧ q.cls ≠ .bath) ∧
    (ending.jobs.list = [job .running] ∧ (job .running).state = .running ∧ ending.seq.activity = .lift ∧
      ((active.channel .travel).moveInFlight = false)) ∧
    (active.setSeq { active.seq with hostLift := .lifting }).seq.hostLift = .lifting := by
  decide +kernel

/-- The station with all drives READY. -/
def ready : State :=
  let d := fun c : ChannelState => { c with ready := true }
  { active with drive := { active.drive with lead := d active.drive.lead, trail := d active.drive.trail
                                             travel := d active.drive.travel } }

theorem met_PauseResumeAndLiftClearAct :
    (active.Listens ∧ (held .stop active).Listens ∧ (held .drive ready).Listens) ∧
    (active.holds.stack = [] ∧ (held .bath active).holds.stack.map (·.cls) = [.bath]) ∧
    ((held .stop active).pins.stop = false ∧
      ({ held .stop active with pins := ⟨true, false⟩ } : State).pins.stop = true) ∧
    (((held .drive ready).drive.lead.ready && (held .drive ready).drive.trail.ready &&
      (held .drive ready).drive.travel.ready) = true ∧ (held .drive active).drive.lead.ready = false) ∧
    ((held .stop active).holds.pending = [] ∧ (held .stop active).runningJob.any (·.cancelPending) = false) ∧
    (HoldClass.isFreeze .pause = true ∧ HoldClass.isFreeze .bath = false) ∧
    ((inState .loading).Listens ∧ (inState .isolated).Listens ∧ active.roster.config ≠ none) ∧
    ({ inState .isolated with roster := { (inState .isolated).roster with config := none } } : State).roster.config =
      none ∧
    (active.jobs.list = [] ∧ (withJob (job .queued) active).jobs.list = [job .queued] ∧
      (job .running).state ≠ .queued) ∧
    active.seq.hostLift ≠ .lifting ∧
    (let s := held .stop (withJob { job .running with cancelPending := true } active);
      let t := { s with holds := { s.holds with stack := [] } };
      s.Listens ∧ t.cancelReady = true ∧ (held .pause ending).Listens ∧ (held .pause ending).endLiftPaused = true ∧
      (held .pause ending).cancelReady = false) ∧
    (let below : HoldEntry := ⟨.bath, 0, .host, active.context⟩;
      let s := active.setHolds { active.holds with stack := [⟨.stop, 0, .stopInput, active.context⟩, below] };
      s.Listens ∧ s.holds.stack = [⟨.stop, 0, .stopInput, active.context⟩] ++ [below] ∧ s.holds.pending = []) := by
  refine ⟨⟨⟨?_, ?_⟩, ⟨?_, ?_⟩, ⟨?_, ?_⟩⟩, ?_, ?_, ?_, ?_, ?_, ⟨⟨?_, ?_⟩, ⟨?_, ?_⟩, ?_⟩, ?_, ?_, ?_,
    ⟨⟨?_, ?_⟩, ?_, ⟨?_, ?_⟩, ?_, ?_⟩, ⟨⟨?_, ?_⟩, ?_, ?_⟩⟩ <;> decide +kernel

theorem met_CancelIsCarriedOutAndContextRestored :
    (let s := withJob { job .running with cancelPending := true } active;
      s.runningJob = some { job .running with cancelPending := true } ∧ s.holds.stack = [] ∧
      (held .pause s).holds.stack = [⟨.pause, 0, .host, s.context⟩] ∧ active.runningJob = none) ∧
    ((held .pause ending).seq.activity = .lift ∧ (held .pause ending).seq.liftFor = some .endLift ∧
      (held .pause ending).holds.stack.map (·.cls) = [.pause]) ∧
    (let s := withJob { job .running with cancelLift := true } active;
      let doing := fun a : Activity => s.setSeq { s.seq with activity := a };
      s.runningJob.any (·.cancelLift) = true ∧ (doing .lift).seq.activity = .lift ∧
      (doing .weighAfterLift).seq.activity = .weighAfterLift ∧ (doing .stopped).seq.activity = .stopped) ∧
    (let hoist := walking ⟨.hoist (-1500) 1200 150, true, .none⟩ .stopped active;
      let shift := walking ⟨.shift ⟨4, 5⟩, true, .none⟩ .stopped active;
      hoist.seq.activity = .segment ∧ hoist.segment = some ⟨.hoist (-1500) 1200 150, true, .none⟩ ∧
      (hoist.setSeq { hoist.seq with phase := some .moving }).seq.phase = some .moving ∧
      shift.segment = some ⟨.shift ⟨4, 5⟩, true, .none⟩ ∧
      (shift.setSeq { shift.seq with phase := some .travelling, arrivedTravel := true }).seq.arrivedTravel = true ∧
      hoist.context.isVoid = false ∧ hoist.mayLower = false ∧ -1500 < hoist.conf.clear ∧
      (at' .travel 5000 (withTable [claimOf 1 7 5 7 .held] hoist)).mayLower = true) ∧
    (walking (drain 5) (.suspended 3) active).seq.timer = .suspended 3 ∧
    (walking (drain 5) .stopped active).seq.timer ≠ .suspended 3 := by decide +kernel

theorem met_LiftsAndWeighingsEndByTheirRequester :
    (let s := walking ⟨.shift ⟨4, 5⟩, true, .none⟩ .stopped active;
      s.activeKind = some (.shift ⟨4, 5⟩) ∧ active.activeKind = none ∧
      ((moving .travel .moving active).channel .travel).moveInFlight = true ∧
      (active.channel .travel).moveInFlight = false) ∧
    (∀ who ∈ [LiftFor.hold, .cancel, .endLift, .host],
      let s := active.setSeq { active.seq with
        activity := .lift, arrivedLead := true, arrivedTrail := true, liftFor := some who }
      s.seq.activity = .lift ∧ s.seq.arrivedLead = true ∧ s.seq.arrivedTrail = true ∧ s.seq.liftFor = some who ∧
        s.holds.stack = []) ∧
    ((held .bath active).holds.stack = [⟨.bath, 0, .host, active.context⟩] ∧ HoldClass.isFreeze .bath = false ∧
      (held .pause active).holds.stack = [⟨.pause, 0, .host, active.context⟩]) ∧
    ((withJob { job .running with dry := some 5 } active).runningJob = some { job .running with dry := some 5 } ∧
      active.runningJob = none) ∧
    (active.bothClear = false ∧ (at' .lead 1000 (at' .trail 1000 active)).bothClear = true) ∧
    (let s := active.setSeq { active.seq with activity := .weighAfterLift, phase := some .settling };
      s.seq.activity = .weighAfterLift ∧ s.seq.phase = some .settling ∧ s.frozen = false ∧
      (held .pause s).frozen = true ∧ (s.channel .lead).moveInFlight = false ∧
      ((moving .travel .stopping s).channel .travel).moveInFlight = true) := by decide +kernel

/-! ## Premises that are met: jobs and programs -/

theorem met_JobsAreSubmittedAndCancelled :
    active.Listens ∧ (inState .listening).roster.state ≠ .active ∧
    ((0 ≤ 7 ∧ 7 < active.conf.cells ∧ 15 < active.conf.cells ∧ ¬ 16 < active.conf.cells) ∧
      active.conf.reach[active.own] = some ⟨0, 7⟩) ∧
    (active.program 0 = [] ∧ (withProgram [drain 5] active).program 0 ≠ []) ∧
    ((job .queued).tag = 501 ∧ active.jobs.list = [] ∧ (List.replicate 4 (job .queued)).length = 4) ∧
    (active.jobs.list.find? (·.tag == 501) = none ∧
      (withJob (job .waitBath) active).jobs.list.find? (·.tag == 501) = some (job .waitBath)) ∧
    ({ job .claiming with claim := some ⟨7, false⟩ } : Job).claim = some ⟨7, false⟩ := by
  refine ⟨⟨?_, ?_⟩, ?_⟩ <;> decide +kernel

theorem met_EarlyEndAndClaimWait :
    let s := fun j : Job => atTime 300000 ((withJob j active).setClaimWait (some ⟨0, 300000⟩))
    ((s (job .waitCells)).jobs.claimWait = some ⟨0, 300000⟩ ∧
      (⟨0, 300000⟩ : Timer).due (s (job .waitCells)).time.clock = true ∧
      (s (job .waitCells)).jobs.list = [job .waitCells]) ∧
    (let j := { job .claiming with claim := some ⟨7, false⟩ };
      (s j).jobs.list = [j] ∧ j.state = .claiming) ∧
    (let j := { job .running with shiftClaim := some ⟨8, false⟩ };
      (s j).jobs.list = [j] ∧ j.state = .running) ∧
    (job .running).shiftClaim = none ∧ (job .queued).state = .queued := by decide +kernel

theorem met_HeadJobIsAdmittedAndStarted :
    (let s := withProgram [drain 5] (withJob (job .queued) active);
      (withTable [recoveryEntry] s).claims.table = [recoveryEntry] ∧ recoveryEntry.kind = .recovery ∧
        (withProgram [] s).program 0 = [] ∧ (held .pause s).holds.stack ≠ [] ∧ active.jobs.list = [] ∧
        (s.log.buffer .b = .free ∧ s.log.call ≠ some .b ∧ ({ s.log with call := some .a } : LogStore).call = some .a) ∧
      s.jobs.list = [job .queued] ∧ s.roster.state = .active ∧ s.holds.stack = [] ∧ s.holds.pending = [] ∧
        (∀ e ∈ s.claims.table, e.kind ≠ .recovery) ∧ s.account.state = .synced ∧ s.log.freeBuffer = some .a ∧
        s.program (job .queued).slot ≠ [] ∧
        (s.conf.floor : Int) ≤ s.account.balance - reservations s.claims.table - (job .queued).draw ∧
        (s.account.balance : Int) - reservations s.claims.table - 4900001 < s.conf.floor) ∧
    (let j := { job .claiming with claim := some ⟨7, true⟩ };
      let s := (withJob j active).setLog { active.log with call := some .b };
      s.jobs.list = [j] ∧ s.holds.stack = [] ∧ s.holds.pending = [] ∧ s.seq.hostLift ≠ .lifting ∧
        s.currentCell = none ∧ (at' .travel 5000 s).currentCell = some 5 ∧ (at' .travel 7999 s).currentCell = some 7 ∧
        (at' .travel 8000 s).currentCell = some 8 ∧ j.span = ⟨5, 7⟩ ∧ s.log.call = some .b ∧
        (held .pause s).holds.stack ≠ []) := by decide +kernel

theorem met_WaitingJobIsTestedAfterReports :
    let due := fun s : State => { s with jobs := { s.jobs with retestDue := true } }
    let low := fun s : State => s.setAccount { s.account with balance := 100000 }
    let blocked := withTable [staleEntry]
    active.advanceOnce = none ∧ (withTable [ungranted 7 5 7] active).advanceOnce.isSome = true ∧
    (∀ st ∈ [JobState.waitBath, .waitCells, .queued],
      let s := due (withJob (job st) active)
      s.jobs.list = [job st] ∧ s.jobs.retestDue = true ∧ s.roster.state = .active ∧ s.holds.stack = [] ∧
        s.holds.pending = [] ∧ s.account.state = .synced ∧ (∀ e ∈ s.claims.table, e.kind ≠ .recovery)) ∧
    (withJob (job .waitBath) active).jobs.retestDue = false ∧
    ((active.conf.floor : Int) ≤ active.account.balance - reservations active.claims.table - (job .queued).draw ∧
      ¬((low active).conf.floor : Int) ≤ (low active).account.balance - reservations (low active).claims.table -
        (job .queued).draw) ∧
    (active.issueRefusal .dip ⟨5, 7⟩ 400000 = none ∧ (low active).issueRefusal .dip ⟨5, 7⟩ 400000 = some .blockedBath ∧
      (blocked active).issueRefusal .dip ⟨5, 7⟩ 400000 = some .blockedCells) ∧
    ((active.askClaim .dip ⟨5, 7⟩ 400000 501).2 = .requesting 7 ∧
      ((alone active).askClaim .dip ⟨5, 7⟩ 400000 501).2 = .held 7) := by decide +kernel

/-- A DIP record being filled for the station's job. -/
def filling : DipRecord := (job .running).newRecord 9 21 0

theorem met_CloseSettlesTheJob :
    (let j := { job .running with claim := some ⟨7, true⟩, shiftClaim := some ⟨8, true⟩, dipId := some 9 };
      let s := (withJob j (walking (drain 5) .stopped active)).setLog { active.log with bufB := .filling filling };
      s.jobs.list = [j] ∧ j.state = .running ∧ s.log.fillingRecord = some (.b, filling)) ∧
    ({ job .running with abort := some .program, shiftTimedOut := true } : Job).cancelLift = false ∧
    (2 * 5 < 11 - 0 ∧ 10 - 0 ≤ 2 * 5) ∧
    (timeLater 7 5 = true ∧ timeLater 5 7 = false) := by decide +kernel

/-- A DWELL as LOAD_PROGRAM sends it. -/
def rawDwell (flags : Byte) : RawSegment := ⟨1, flags, [0, 0, 0, 100, 0, 0, 0, 0]⟩

theorem met_SlotsChangeOnlyByLoading :
    active.Listens ∧ (∀ j ∈ active.jobs.list, j.slot ≠ 7) ∧
    ((withJob (job .queued) active).jobs.list = [job .queued] ∧ (job .queued).slot = 0) ∧
    validate (some conf) [rawDwell 0] = some (0, .noLast) ∧ validate (some conf) [rawDwell 3] = some (0, .badMode) ∧
    (validate (some conf) [rawDwell 1] = none ∧ storedProgram [rawDwell 1, rawDwell 1] = [⟨.dwell 100, true, .none⟩]) ∧
    (∃ t, exec (.loadProgram 7 [rawDwell 1]) active = .next t ∧ t.programs ≠ active.programs) ∧
    ((rawDwell 0).flags.getLsbD 0 = false ∧ (rawDwell 1).flags.getLsbD 0 = true ∧
      (⟨3, 1, [1, 0, 200, 0, 0, 0, 0, 0]⟩ : RawSegment).kind = 3#8 ∧
      natOf (([1, 0, 200] : List Byte).take 1) = 1 ∧ natOf (([0, 0, 200] : List Byte).take 1) = 0) := by
  refine ⟨⟨?_, ?_⟩, ?_, ?_, ?_, ?_, ?_, ?_, ?_⟩
  case refine_8 => exact ⟨_, rfl, by decide +kernel⟩
  all_goals decide +kernel

/-- A SHIFT as LOAD_PROGRAM sends it. -/
def rawShift (first last : Byte) : RawSegment := ⟨5, 1, [first, last, 0, 0, 0, 0, 0, 0]⟩

/-- A HOIST to the height 0 as LOAD_PROGRAM sends it. -/
def rawHoist (speed : Byte) : RawSegment := ⟨0, 1, [0, 0, 0, 0, 0, speed, 0, 0]⟩

/-- A LOOP as LOAD_PROGRAM sends it. -/
def rawLoop (count last : Byte) : RawSegment := ⟨4, 0, [count, last, 0, 0, 0, 0, 0, 0]⟩

/-- Each reason of the table of R95, and none, by a program that fails by it. -/
theorem met_LoadedProgramIsValidated :
    let fails := fun segs => validate (some conf) segs
    let d := rawDwell 0
    let e := rawDwell 1
    fails [d] = some (0, .noLast) ∧ fails [d, e] = none ∧
    [d, e].findIdx? (fun r => r.flags.getLsbD 0) = some 1 ∧
    fails [⟨6, 1, List.replicate 8 0⟩] = some (0, .badKind) ∧ fails [d, ⟨1, 3, List.replicate 8 0⟩] = some (1, .badMode) ∧
    fails [rawHoist 9] = some (0, .badOperand) ∧ fails [rawHoist 10] = none ∧
    fails [⟨0, 1, [0x80, 0, 0, 0, 0, 10, 0, 0]⟩] = some (0, .badHeight) ∧
    validate none [rawHoist 10] = some (0, .badHeight) ∧
    fails [rawLoop 2 0, e] = some (0, .badLoop) ∧ fails [rawLoop 2 1, e] = none ∧
    fails [rawLoop 2 2, rawLoop 2 3, d, e] = some (1, .loopCross) ∧
    fails [rawLoop 2 1, d, rawLoop 2 3, e] = none ∧
    fails [rawShift 7 8] = some (0, .badSpan) ∧ fails [rawShift 6 7] = none ∧
    validate none [rawShift 6 7] = some (0, .badSpan) := by decide +kernel

/-! ## Premises that are met: the Dip Sequencer and the drives -/

theorem met_SegmentStartsByItsKind :
    let s := walking (drain 5) .stopped active
    let high := at' .lead 1000 (at' .trail 1000 s)
    (s.mayLower = false ∧ -1500 < s.conf.clear) ∧
    (at' .travel 5000 (withTable [claimOf 1 7 5 7 .held] s)).mayLower = true ∧
    (s.time.lead.on = false ∧ s.time.trail.on = false ∧
      ({ s with time := { s.time with lead := ⟨true, true, none, none⟩ } } : State).time.lead.on = true) ∧
    (let c : Capture := ⟨true, false, none, none⟩;
      c.armed = false ∧ c.on = true ∧ c.entry = none ∧ { c with armed := true }.armed = true ∧
        { c with on := false }.on = false ∧ { c with entry := some 5 }.entry ≠ none) ∧
    (s.seq.index = some 0 ∧ s.seq.loops.length < 4 ∧
      4 ≤ (s.setSeq { s.seq with loops := List.replicate 4 ⟨3, 6, 2⟩ }).seq.loops.length) ∧
    (high.aboveClear .lead = true ∧ high.aboveClear .trail = true ∧ (at' .trail 999 high).aboveClear .trail = false ∧
      high.runningJob = some (job .running)) := by decide +kernel

theorem met_ShiftClaimsTravelsAndArrives :
    let g : Segment := ⟨.shift ⟨4, 5⟩, true, .none⟩
    let j := { job .running with claim := some ⟨7, true⟩ }
    let s := fun p : Phase => (withProgram [g] (withJob j active)).setSeq { active.seq with
      activity := .segment, slot := some 0, index := some 0, phase := some p, arrivedTravel := true }
    (active.askClaim .shift ⟨4, 5⟩ 400000 501).2 = .requesting 7 ∧
    ((alone active).askClaim .shift ⟨4, 5⟩ 400000 501).2 = .held 7 ∧
    active.issueRefusal .shift ⟨4, 5⟩ 400000 = none ∧
    (withTable [{ staleEntry with span := ⟨4, 5⟩ }] active).issueRefusal .shift ⟨4, 5⟩ 400000 = some .blockedCells ∧
    (∀ p ∈ [Phase.waiting, .starting, .negotiating, .held, .travelling],
      (s p).seq.activity = .segment ∧ (s p).segment = some g ∧ (s p).seq.index = some 0 ∧ (s p).runningJob = some j ∧
        (s p).seq.phase = some p ∧ (s p).holds.stack = [] ∧ (s p).seq.arrivedTravel = true ∧
        (held .pause (s p)).holds.stack ≠ []) := by decide +kernel

theorem met_SegmentsCompleteAndLoopsCount :
    ((⟨3, 6, 1⟩ : Loop).endIndex = 6 ∧ (⟨3, 6, 1⟩ : Loop).remaining ≤ 1 ∧ 1 < (⟨3, 6, 2⟩ : Loop).remaining ∧
      (⟨3, 6, 2⟩ : Loop).endIndex ≠ 5) ∧
    (∀ p ∈ [Phase.starting, .complete, .moving, .settling],
      let s := (walking ⟨.weigh .dry 5, true, .none⟩ .stopped active).setSeq { active.seq with
        activity := .segment, slot := some 0, index := some 0, phase := some p }
      s.seq.activity = .segment ∧ s.segment = some ⟨.weigh .dry 5, true, .none⟩ ∧ s.seq.index = some 0 ∧
        s.holds.stack = [] ∧ s.anyMoveInFlight = false ∧ (moving .lead .moving s).anyMoveInFlight = true) ∧
    ((endTest 0 [⟨0, 0, 2⟩]).2 = some 0 ∧ (endTest 0 []).2 = none) ∧
    (∀ k ∈ [SegmentKind.dwell 5, .drain 5, .weigh .dry 5],
      let s := atTime 5 (walking ⟨k, true, .none⟩ (.running ⟨0, 5⟩) active)
      s.seq.timer = .running ⟨0, 5⟩ ∧ (⟨0, 5⟩ : Timer).due s.time.clock = true ∧ s.activeKind = some k) ∧
    (let s := atTime 3000 ((withJob (job .running) active).setSeq { active.seq with
        activity := .weighAfterLift, phase := some .timing, timer := .running ⟨0, 3000⟩ });
      s.seq.timer = .running ⟨0, 3000⟩ ∧ (⟨0, 3000⟩ : Timer).due s.time.clock = true ∧
        s.seq.activity = .weighAfterLift) := by decide +kernel

theorem met_DriveLinkServesInTurn :
    (active.drive.lead.waiting = none ∧ active.drive.trail.waiting = none ∧ active.drive.travel.waiting = none) ∧
    (active.drive.busy = false ∧ ({ active.drive with busy := true } : DrivePort).busy = true) ∧
    (let s := (active.postCommand .trail (.move 5 100)).postCommand .lead .stop;
      (s.channel .trail).waiting = some (.move 5 100) ∧ s.drive.turn = .lead ∧ (s.channel .lead).waiting ≠ none ∧
        (s.channel .travel).waiting = none) ∧
    ((active.channel .trail).report = none ∧ (at' .trail 1200 active).drive.trail.report.map (·.position) = some 1200) ∧
    ((active.postCommand .lead .stop).channel .lead).inFlight = none ∧
    (((moving .lead .moving active).postCommand .lead .stop).channel .lead).inFlight.isSome = true := by decide +kernel

theorem met_ArrivedAndReportAreTaken :
    (active.channel .lead).inFlight = none ∧
    ((moving .lead .stopping active).channel .lead).inFlight =
      some ⟨-1500, 100, some 1200, 0, .stopping, true, false⟩ ∧
    ((moving .lead .timedOut active).channel .lead).inFlight.map (·.status) = some .timedOut ∧
    (walking (drain 5) .stopped active).seq.activity = .segment ∧ active.seq.activity = .idle ∧
    active.roster.state ≠ .offline ∧
    (let s := moving .lead .moving (walking (drain 5) .stopped active);
      s.runningJob ≠ none ∧ s.drive.lead.inFlight.map (·.target) = some (-1500) ∧ -1500 < s.conf.clear ∧
        s.currentCell = none ∧ s.drive.travel.report = none ∧ (at' .travel 15999 s).currentCell = some 15 ∧
        (at' .travel 16000 s).currentCell = none ∧ (at' .travel 0 s).currentCell = some 0 ∧
        (at' .travel 5000 (withTable [claimOf 1 7 5 7 .held] s)).currentCell = some 5) ∧
    (let g : Segment := ⟨.hoist (-1500) 1200 150, true, ⟨false, true, false⟩⟩;
      let far := fun (p : Int) (c : ChannelState) => { c with
        inFlight := some ⟨-1500, 100, some 1200, 0, .moving, true, true⟩, report := some ⟨p, 0, true, 0⟩ };
      let s := (walking g .stopped active).setPhase .moving;
      s.segment = some g ∧ g.modes.sync = true ∧ s.seq.phase = some .moving ∧
        (far 1200 s.drive.lead).syncProgress = some 0 ∧
        (far (-1500) s.drive.trail).syncProgress = some 100 ∧ s.conf.syncTolerance < 100 ∧
        s.drive.lead.syncProgress = none) := by decide +kernel

theorem met_DriveFaultsAndTimersAreTaken :
    active.roster.state ≠ .offline ∧
    (∀ st ∈ [FlightStatus.moving, .stopping, .timedOut],
      let s := atTime 2000 (moving .lead st active)
      (s.channel .lead).inFlight = some ⟨-1500, 100, some 1200, 0, st, true, false⟩ ∧
        (s.channel .lead).timer = some ⟨0, 2000⟩ ∧ (⟨0, 2000⟩ : Timer).due s.time.clock = true) := by decide +kernel

/-! ## Premises that are met: the log and the port -/

/-- The station committing a record to a page. -/
def committing (seq page failures : Nat) (locks : BitVec 64) : State :=
  active.setLog { active.log with
    op := .program, bufA := .committing ⟨seq, 0, .entry 1 .charge 5⟩, writePos := some page, failures := failures
    locks := locks }

theorem met_CommitAndEraseMoveOn :
    (let s := committing 1 0 0 0;
      s.log.op = .program ∧ s.log.committing = some (.a, ⟨1, 0, .entry 1 .charge 5⟩) ∧ s.log.writePos = some 0) ∧
    (nextEmptyAfter [(0, entryRecord 1)] 0 = some 1 ∧ nextEmptyAfter [(63, entryRecord 1)] 63 = none ∧
      nextEmptyAfter [(0, .invalid)] 0 = some 1 ∧ nextEmptyAfter [(4095, .invalid)] 4095 = none) ∧
    (sectionLocked 0 ((63 / 64 + 1) % 64) = false ∧ sectionLocked 2 ((63 / 64 + 1) % 64) = true ∧
      sectionLocked 1 ((4095 / 64 + 1) % 64) = true) ∧
    (2 ≤ (committing 1 0 2 0).log.failures ∧ (committing 1 0 1 0).log.failures < 2 ∧
      (committing 1 0 0 0).log.state = .opened ∧ (committing 1 0 0 0).log.eraseDue = none) ∧
    (let s := active.setLog { active.log with op := .erase 63 };
      s.log.op = .erase 63 ∧ (∀ o ∈ [0, 63], o < 64) ∧
      nextEmpty (([0].foldl (fun ps o => putPage (64 * 63 + o) .invalid ps) s.flash.pages)) 64 (64 * 63) =
        some 4033) ∧
    (let bad := putPage 63 .invalid active.flash.pages;
      nextEmptyAfter bad 63 = none ∧ sectionLocked 2 1 = true ∧
        (committing 1 63 1 2).log.committing = some (.a, ⟨1, 0, .entry 1 .charge 5⟩)) ∧
    nextEmpty ((List.range 64).foldl (fun ps o => putPage o .invalid ps) []) 64 0 = none := by decide +kernel

/-- The station with both record buffers READY, the log free to commit. -/
def twoReady (a b : Nat) (last : BufferId) : State :=
  active.setLog { active.log with
    bufA := .ready ⟨a, 0, .entry 1 .charge 5⟩, bufB := .ready ⟨b, 0, .entry 2 .charge 5⟩, lastReady := some last }

theorem met_ArrayOperationsAndCheckpointsBegin :
    (let s := active.setLog { active.log with areaWrite := some ⟨.lockTable 1, 0⟩ };
      s.log.op = .none ∧ s.log.areaWrite ≠ none ∧ active.log.areaWrite = none) ∧
    (let s := fun locks => active.setLog { active.log with eraseDue := some 1, locks := locks };
      (s 0).log.state = .opened ∧ (s 0).log.eraseDue = some 1 ∧ sectionLocked (s 0).log.locks 1 = false ∧
      sectionLocked (s 2).log.locks 1 = true) ∧
    ((active.setLog { active.log with op := .program }).log.op ≠ .none ∧ (inState .active).log.eraseDue = none ∧
      active.log.writePos = some 0) ∧
    ((twoReady 1 2 .b).log.bufA = .ready ⟨1, 0, .entry 1 .charge 5⟩ ∧
      (twoReady 1 2 .b).log.bufB = .ready ⟨2, 0, .entry 2 .charge 5⟩ ∧
      (twoReady 4294967295 4294967295 .a).log.lastReady = some .a ∧
      (twoReady 4294967295 4294967295 .b).log.lastReady ≠ some .a) ∧
    (active.log.bufB = .free ∧ (committing 1 0 0 0).log.bufA = .committing ⟨1, 0, .entry 1 .charge 5⟩) ∧
    (let s := active.setAccount { active.account with checkpointPending := true };
      s.account.checkpointPending = true ∧ s.log.freeBuffer = some .a ∧ active.account.checkpointPending = false ∧
      (twoReady 1 2 .b).log.freeBuffer = none) := by decide +kernel

/-- The station with an area write in flight. -/
def writing (target : AreaTarget) (failed : Nat) (st : LogState) : State :=
  active.setLog { active.log with op := .areaWrite, areaWrite := some ⟨target, failed⟩, state := st }

theorem met_AreaWriteEndsAndUnlockLeavesFull :
    (∀ k ∈ [0, 1, 2], (writing (.lockTable 1) k .opened).log.areaWrite = some ⟨.lockTable 1, k⟩) ∧
    ((writing (.lockTable 1) 0 .opened).log.op = .areaWrite ∧ (writing (.lockTable 1) 0 .opened).log.state ≠ .full) ∧
    (writing (.config []) 0 .opened).log.areaWrite = some ⟨.config [], 0⟩ ∧
    (let s := writing (.lockTable 1) 0 .full;
      (s.setLog { s.log with blocked := some ⟨0, true⟩ }).log.blocked = some ⟨0, true⟩ ∧ s.log.state = .full ∧
        sectionLocked 1 0 = true ∧ sectionLocked 0 0 = false) ∧
    (let s := (writing (.lockTable 1) 0 .full).setPages [(0, entryRecord 1)];
      newestRecord s.flash.pages = some (0, ⟨1, 0, .entry 1 .charge 5⟩) ∧ nextEmptyAfter s.flash.pages 0 = some 1) ∧
    (newestRecord [(63, entryRecord 1)] = some (63, ⟨1, 0, .entry 1 .charge 5⟩) ∧
      nextEmptyAfter [(63, entryRecord 1)] 63 = none ∧ sectionLocked 1 ((63 / 64 + 1) % 64) = false ∧
      sectionLocked 2 ((63 / 64 + 1) % 64) = true) := by decide +kernel

theorem met_LogRequestsAreTestedInOrder :
    active.Listens ∧ active.log.state ≠ .scanning ∧ (loading [] 0).Listens ∧ (loading [] 0).log.state = .scanning ∧
    (4095 ≤ 4095 ∧ 1 ≤ 8 ∧ ¬ 4096 ≤ 4095 ∧ ¬ 1 ≤ 0) ∧
    (active.log.writePos = some 0 ∧ 0 / 64 < 1 ∧ ¬ (0 / 64 < 0 ∨ 63 < 0 / 64)) ∧
    (active.pins.protect = false ∧ ({ active with pins := ⟨false, true⟩ } : State).pins.protect = true) ∧
    (active.runningJob = none ∧ (withJob (job .running) active).runningJob ≠ none) ∧
    (configFailure (List.replicate 48 0)).isSome = true ∧
    configFailure ([1, 16, 3, 232, 0, 0, 0, 1, 0, 7, 0, 0, 0, 1, 4, 11] ++
      [1, 8, 15, 0, 0, 0, 0, 0, 0, 0, 0, 0, 1, 0, 1, 134, 160, 3, 232] ++
      [1, 44, 244, 72, 23, 112, 0, 100, 0, 150, 0, 250, 10]) = none := by
  refine ⟨⟨?_, ?_⟩, ?_, ⟨?_, ?_⟩, ?_⟩ <;> decide +kernel

theorem met_PortTakesOneRequestAndEchoesItsCode :
    active.Listens ∧
    (∀ p ∈ [PortState.working, .answering],
      let s : State := { active with port := { active.port with state := p } }
      s.roster.state ≠ .offline ∧ s.port.state = p) ∧
    (∃ t, exec .status active = .next t) ∧ requestCode .status ≠ 0 ∧ requestCode (.unknownRequest 0) = 0 :=
  ⟨⟨by decide, by decide⟩, by decide, ⟨_, rfl⟩, by decide, by decide⟩

theorem met_ReadsShowAndAcknowledgeClears :
    active.Listens ∧ (inState .isolated).Listens ∧
    (Flag.peerChange, 8) ∈ [(Flag.jobEnd, 0), (.resultLost, 1), (.holdChange, 2), (.stalePresent, 3), (.logFull, 4),
      (.logFault, 5), (.accountEvent, 6), (.linkError, 7), (.peerChange, 8)] ∧
    (job .queued).state = .queued ∧ (job .running).state ≠ .queued :=
  ⟨⟨by decide, by decide⟩, ⟨by decide, by decide⟩, by decide, by decide, by decide⟩

end Sys2Proof.Tests
end

section
/-! SUPPORT. Facts the proofs about the claim protocol share: what a posting, a heard frame and a claim that becomes HELD
leave alone, what a dispatched frame does, and one lemma per outcome of each operation of the Claim Unit. -/

namespace Sys2Proof.Machine

/-! ## What a posting and a heard frame leave alone -/

/-- A posting touches the Link Interface and the port's flags only. -/
theorem post_frame (d : Dest) (p : Payload) (s : State) :
    s.post d p = { s with link := (s.post d p).link, port := (s.post d p).port } := by
  unfold State.post
  dsimp only
  split
  · split
    · split <;> rfl
    · rfl
  · rfl

@[simp] theorem post_roster (d : Dest) (p : Payload) (s : State) : (s.post d p).roster = s.roster := by rw [post_frame]
@[simp] theorem post_claims (d : Dest) (p : Payload) (s : State) : (s.post d p).claims = s.claims := by rw [post_frame]
@[simp] theorem post_account (d : Dest) (p : Payload) (s : State) : (s.post d p).account = s.account := by rw [post_frame]

/-- Hearing a frame touches the record of its origin and the port's flags only. -/
theorem heard_frame (s : State) (f : Frame) :
    s.heard f = { s with
      roster := { s.roster with peers := (s.heard f).roster.peers }, port := (s.heard f).port } := by
  unfold State.heard State.hear
  dsimp only
  split <;> rfl

@[simp] theorem heard_claims (s : State) (f : Frame) : (s.heard f).claims = s.claims := by rw [heard_frame]
@[simp] theorem heard_account (s : State) (f : Frame) : (s.heard f).account = s.account := by rw [heard_frame]
@[simp] theorem heard_station (s : State) (f : Frame) : (s.heard f).roster.state = s.roster.state := by rw [heard_frame]
@[simp] theorem heard_ticketCounter (s : State) (f : Frame) :
    (s.heard f).roster.ticketCounter = s.roster.ticketCounter := by rw [heard_frame]
@[simp] theorem heard_identityFields (s : State) (f : Frame) : (s.heard f).identityFields = s.identityFields := by
  rw [heard_frame]; rfl

/-! ## The configured values -/

@[simp] theorem post_conf (d : Dest) (p : Payload) (s : State) : (s.post d p).conf = s.conf := by rw [post_frame]; rfl
@[simp] theorem heard_conf (s : State) (f : Frame) : (s.heard f).conf = s.conf := by rw [heard_frame]; rfl
@[simp] theorem setTable_conf (t : List ClaimEntry) (s : State) : (s.setTable t).conf = s.conf := rfl
@[simp] theorem raiseTicket_conf (v : Nat) (s : State) : (s.raiseTicket v).conf = s.conf := rfl

/-- This station's rank is a configured value. -/
theorem own_congr {s t : State} (h : t.conf = s.conf) : t.own = s.own := congrArg ConfigRecord.ownRank h

/-- Which spans this station's reach meets rests on the configured values. -/
theorem meets_congr {s t : State} (h : t.conf = s.conf) (sp : Span) : t.meets sp = s.meets sp := by
  unfold State.meets State.reachOf State.own; rw [h]

/-- Which claims are sound rests on the configured values. -/
theorem claimSound_congr {s t : State} (h : t.conf = s.conf) (o : Rank) (sp : Span) :
    t.claimSound o sp = s.claimSound o sp := by
  unfold State.claimSound State.reachOf; rw [h]

@[simp] theorem heard_claimSound (s : State) (f : Frame) (o : Rank) (sp : Span) :
    (s.heard f).claimSound o sp = s.claimSound o sp := claimSound_congr (heard_conf s f) o sp
@[simp] theorem raiseTicket_claimSound (v : Nat) (s : State) (o : Rank) (sp : Span) :
    (s.raiseTicket v).claimSound o sp = s.claimSound o sp := claimSound_congr (raiseTicket_conf v s) o sp
@[simp] theorem heard_meets (s : State) (f : Frame) (sp : Span) : (s.heard f).meets sp = s.meets sp :=
  meets_congr (heard_conf s f) sp
@[simp] theorem raiseTicket_meets (v : Nat) (s : State) (sp : Span) : (s.raiseTicket v).meets sp = s.meets sp :=
  meets_congr (raiseTicket_conf v s) sp
@[simp] theorem raiseTicket_own (v : Nat) (s : State) : (s.raiseTicket v).own = s.own := rfl
@[simp] theorem post_own (d : Dest) (p : Payload) (s : State) : (s.post d p).own = s.own := own_congr (by simp)
@[simp] theorem heard_own (s : State) (f : Frame) : (s.heard f).own = s.own := own_congr (by simp)
@[simp] theorem setTable_own (t : List ClaimEntry) (s : State) : (s.setTable t).own = s.own := rfl

/-! ## Dispatched frames -/

/-- A command that dispatches a heard frame does what the frame's block makes of it. -/
theorem exec_of_hears {s t : State} {i : BufferId} {f : Frame} (h : s.Hears i f) (k : FrameKind)
    (hk : f.payload.kind = k) (ht : takePayload f (s.heard f) = t) :
    exec k.command s = .next (t.freeRx i).finish := by
  rw [exec_command, dispatch_of_hears h hk, ht]

theorem exec_claim_of_hears {s t : State} {i : BufferId} {f : Frame} {c : ListedClaim} (h : s.Hears i f)
    (hp : f.payload = .claim c) (ht : (s.heard f).takeClaim f.origin c = t) :
    exec .claimTaken s = .next (t.freeRx i).finish :=
  exec_of_hears h .claim (by rw [hp]; rfl) (by unfold takePayload; rw [hp]; exact ht)

theorem exec_verdict_of_hears {s t : State} {i : BufferId} {f : Frame} {n : BitVec 16} {v : Verdict} {bath : Bool}
    (h : s.Hears i f) (hp : f.payload = .verdict n v bath)
    (ht : (s.heard f).takeVerdict f.origin n v (State.tellRefused n) = t) :
    exec .verdictTaken s = .next (t.freeRx i).finish :=
  exec_of_hears h .verdict (by rw [hp]; rfl) (by unfold takePayload; rw [hp]; exact ht)

theorem exec_release_of_hears {s t : State} {i : BufferId} {f : Frame} {n : BitVec 16} (h : s.Hears i f)
    (hp : f.payload = .release n) (ht : (s.heard f).takeRelease f.origin n = t) :
    exec .releaseTaken s = .next (t.freeRx i).finish :=
  exec_of_hears h .release (by rw [hp]; rfl) (by unfold takePayload; rw [hp]; exact ht)

theorem exec_vacate_of_hears {s t : State} {i : BufferId} {f : Frame} {r : Rank} (h : s.Hears i f)
    (hp : f.payload = .vacate r)
    (ht : (if r = (s.heard f).own then s.heard f else (s.heard f).vacateRank r) = t) :
    exec .vacateTaken s = .next (t.freeRx i).finish :=
  exec_of_hears h .vacate (by rw [hp]; rfl) (by unfold takePayload; rw [hp]; exact ht)

theorem exec_state_of_hears {s t : State} {i : BufferId} {f : Frame} {id : Identity} {n : Nat} {a : AccountState}
    {l : List ListedClaim} (h : s.Hears i f) (hp : f.payload = .state id n a l)
    (ht : (s.heard f).takeState f.origin n l = t) : exec .stateTaken s = .next (t.freeRx i).finish :=
  exec_of_hears h .state (by rw [hp]; rfl) (by unfold takePayload; rw [hp]; exact ht)

theorem exec_join_of_hears {s t : State} {i : BufferId} {f : Frame} {id : Identity} (h : s.Hears i f)
    (hp : f.payload = .join id) (ht : (s.heard f).postState (.rank f.origin) = t) :
    exec .joinTaken s = .next (t.freeRx i).finish :=
  exec_of_hears h .join (by rw [hp]; rfl) (by unfold takePayload; rw [hp]; exact ht)

theorem exec_beacon_of_hears {s t : State} {i : BufferId} {f : Frame} {id : Identity} {b : BeaconFields}
    (h : s.Hears i f) (hp : f.payload = .beacon id b)
    (ht : ((s.heard f).censusRepair f.origin b).accountBeacon f.origin b = t) :
    exec .beaconTaken s = .next (t.freeRx i).finish :=
  exec_of_hears h .beacon (by rw [hp]; rfl) (by unfold takePayload; rw [hp]; exact ht)

/-! ## The occupancy table -/

/-- An entry that an identity finds has that identity. -/
theorem entryOf_some {s : State} {o : Rank} {n : BitVec 16} {e : ClaimEntry} (h : s.entryOf o n = some e) :
    e ∈ s.claims.table ∧ e.origin = o ∧ e.number = n := by
  have hi := List.find?_some h
  simp only [ClaimEntry.is, Bool.and_eq_true, beq_iff_eq] at hi
  exact ⟨List.mem_of_find?_eq_some h, hi⟩

/-- The tables alone decide which entry an identity finds. -/
theorem entryOf_congr {s t : State} (h : t.claims = s.claims) (o : Rank) (n : BitVec 16) :
    t.entryOf o n = s.entryOf o n := by unfold State.entryOf; rw [h]

@[simp] theorem heard_entryOf (s : State) (f : Frame) (o : Rank) (n : BitVec 16) :
    (s.heard f).entryOf o n = s.entryOf o n := entryOf_congr (heard_claims s f) o n
@[simp] theorem raiseTicket_entryOf (v : Nat) (s : State) (o : Rank) (n : BitVec 16) :
    (s.raiseTicket v).entryOf o n = s.entryOf o n := rfl

/-- Tables that hold the same claims are of one length. -/
theorem sameClaims_length : ∀ {l m : List ClaimEntry}, sameClaims l m = true → l.length = m.length
  | [], [], _ => rfl
  | _ :: l, _ :: m, h => by
      simp only [sameClaims, Bool.and_eq_true] at h
      exact congrArg (· + 1) (sameClaims_length h.2)

/-- Of two changes of the table in one event the first leaves no trace, when each changes its length: R5 reports them
as one. -/
theorem setTable_setTable {s : State} {a b : List ClaimEntry} (ha : s.claims.table.length ≠ a.length)
    (hb : s.claims.table.length ≠ b.length) : (s.setTable a).setTable b = s.setTable b := by
  have sa : sameClaims s.claims.table a = false := Bool.eq_false_iff.mpr fun h => ha (sameClaims_length h)
  have sb : sameClaims s.claims.table b = false := Bool.eq_false_iff.mpr fun h => hb (sameClaims_length h)
  unfold State.setTable
  simp [sa, sb]

/-- Entries removed, and what is left changed in other ways: one change of the table. -/
theorem setTable_filter_map {s : State} {p : ClaimEntry → Bool} (g : ClaimEntry → ClaimEntry)
    (h : ∃ e ∈ s.claims.table, p e = false) :
    (s.setTable (s.claims.table.filter p)).setTable ((s.claims.table.filter p).map g) =
      s.setTable ((s.claims.table.filter p).map g) := by
  obtain ⟨e, he, hp⟩ := h
  have shorter := filter_shorter he hp
  exact setTable_setTable (by omega) (by rw [List.length_map]; omega)

/-- A table of claims reserves what its parts reserve. -/
theorem reservations_append (t u : List ClaimEntry) : reservations (t ++ u) = reservations t + reservations u := by
  unfold reservations; rw [List.map_append, List.sum_append]

/-- A state put on an identity that does not stand in the table changes nothing. -/
theorem putState_absent {o : Rank} {n : BitVec 16} {t : List ClaimEntry} (h : (o, n) ∉ identities t)
    (c : ClaimState) : putState o n c t = t := by
  refine (List.map_congr_left fun e he => ?_).trans (List.map_id t)
  have : e.is o n = false := by
    refine Bool.eq_false_iff.mpr fun hi => h (List.mem_map.mpr ⟨e, he, ?_⟩)
    simp only [ClaimEntry.is, Bool.and_eq_true, beq_iff_eq] at hi
    rw [hi.1, hi.2]
  simp [this]

end Sys2Proof.Machine
end

section
/-! PROOFS. Tickets, and a request for a claim (R6 to R10). -/

namespace Sys2Proof.Machine

/-! ## Tickets -/

theorem ticketEarlier_iff (v : Nat) (r : Rank) (w : Nat) (q : Rank) :
    ticketEarlier v r w q = true ↔ v < w ∨ (v = w ∧ r < q) := by
  simp [ticketEarlier]

theorem ticketEarlier_irrefl (v : Nat) (r : Rank) : ticketEarlier v r v r = false := by
  simp [ticketEarlier]

theorem ticketEarlier_trans {v w x : Nat} {r q p : Rank} (h : ticketEarlier v r w q = true)
    (k : ticketEarlier w q x p = true) : ticketEarlier v r x p = true := by
  rw [ticketEarlier_iff] at *
  rcases h with h | ⟨rfl, h⟩
  · exact .inl (by omega)
  · exact k.imp id fun ⟨e, k⟩ => ⟨e, Fin.lt_trans h k⟩

theorem ticketEarlier_total (v w : Nat) {r q : Rank} (h : r ≠ q) :
    ticketEarlier v r w q = true ∨ ticketEarlier w q v r = true := by
  simp only [ticketEarlier_iff]
  rcases Nat.lt_trichotomy v w with lt | rfl | gt
  · exact .inl (.inl lt)
  · exact (Nat.lt_or_gt_of_ne (Fin.val_ne_of_ne h)).imp (fun l => .inr ⟨rfl, l⟩) fun l => .inr ⟨rfl, l⟩
  · exact .inr (.inl gt)

/-- Settles O23: the order of two tickets is that of their values, then that of their ranks. -/
theorem ticketsAreStrictlyOrdered : Obligations.TicketsAreStrictlyOrdered :=
  ⟨ticketEarlier_iff, ticketEarlier_irrefl, fun _ _ _ _ _ _ => ticketEarlier_trans,
    fun v _ w _ => ticketEarlier_total v w⟩

/-! ## The tests of a request (R9) -/

/-- The account test for a DIP or a SHIFT claim. -/
theorem accountAllows_iff (s : State) {k : ClaimKind} (hk : k ≠ .recovery) :
    s.accountAllows k = true ↔ if k = .dip then s.account.state = .synced else s.account.state ≠ .rebasing := by
  cases k with
  | dip => simp [State.accountAllows]
  | shift => simp [State.accountAllows]
  | recovery => exact absurd rfl hk

theorem staleOverlaps_false_iff (s : State) (sp : Span) :
    s.staleOverlaps sp = false ↔ ∀ e ∈ s.claims.table, e.isStale = true → e.span.overlaps sp = false := by
  simp [State.staleOverlaps]

theorem bathTest_iff (s : State) (r l : Nat) :
    s.bathTest r l = true ↔
      (s.conf.floor : Int) ≤ (s.account.balance : Int) - reservations s.claims.table + l - r := by
  simp [State.bathTest]

/-- The bath test of a new reservation, asked for a DIP claim only. -/
theorem bathRefused_false_iff (s : State) (k : ClaimKind) (n : Nat) :
    (k == .dip && !s.bathTest n 0) = false ↔
      (k = .dip → (s.conf.floor : Int) ≤ s.account.balance - reservations s.claims.table - n) := by
  have h := bathTest_iff s n 0
  rw [Int.natCast_zero, Int.add_zero] at h
  by_cases hk : k = .dip
  · simp [hk, ← h]
  · simp [hk]

/-- The six tests, each in the words of R9. -/
theorem issueRefusal_eq (s : State) {k : ClaimKind} (sp : Span) (n : Nat) (hk : k ≠ .recovery) :
    s.issueRefusal k sp n =
      if ¬ s.roster.state = .active then some .notActive
      else if ¬ (s.claims.table.filter fun e => e.origin == s.own).length < 2 then some .ownLimit
      else if ¬ (sp.valid s.conf.cells = true ∧ withinReach (s.reachOf s.own) sp = true) then some .outOfReach
      else if ¬ (if k = .dip then s.account.state = .synced else s.account.state ≠ .rebasing) then some .notSynced
      else if ¬ ∀ e ∈ s.claims.table, e.isStale = true → e.span.overlaps sp = false then some .blockedCells
      else if ¬ (k = .dip → (s.conf.floor : Int) ≤ s.account.balance - reservations s.claims.table - n) then
        some .blockedBath
      else none := by
  unfold State.issueRefusal
  simp only [← accountAllows_iff s hk, ← staleOverlaps_false_iff, ← bathRefused_false_iff, ← Bool.and_eq_true,
    Bool.not_eq_false, Nat.not_lt, Bool.not_eq_true', Bool.not_eq_true, bne_iff_ne, ne_eq]
  rfl

theorem askClaim_of_refused {s : State} {k : ClaimKind} {sp : Span} {n : Nat} {a : IssueAnswer} (tag : BitVec 16)
    (h : s.issueRefusal k sp n = some a) : s.askClaim k sp n tag = (s, a) := by
  unfold State.askClaim; rw [h]

/-! ## The issue (R10) -/

theorem enterOwn_ownCounter (k : ClaimKind) (sp : Span) (n : Nat) (tag : Option (BitVec 16)) (c : ClaimState)
    (s : State) : (s.enterOwn k sp n tag c).claims.ownCounter = s.claims.ownCounter + 1 := by
  unfold State.enterOwn; simp

/-- Nobody owes a verdict: the claim is HELD at once. -/
theorem askClaim_held {s : State} {k : ClaimKind} {sp : Span} {n : Nat} (tag : BitVec 16)
    (h : s.issueRefusal k sp n = none) (g : s.grantSet sp = []) :
    s.askClaim k sp n tag = (s.enterOwn k sp n (some tag) .held, .held (s.claims.ownCounter + 1)) := by
  unfold State.askClaim State.issue
  simp [h, g, enterOwn_ownCounter]

/-- Somebody owes a verdict: the claim is REQUESTING. -/
theorem askClaim_requesting {s : State} {k : ClaimKind} {sp : Span} {n : Nat} (tag : BitVec 16)
    (h : s.issueRefusal k sp n = none) (g : s.grantSet sp ≠ []) :
    s.askClaim k sp n tag =
      (s.enterOwn k sp n (some tag) (.requesting (s.grantSet sp) 1 ⟨s.time.clock, s.conf.answerWindow⟩),
        .requesting (s.claims.ownCounter + 1)) := by
  unfold State.askClaim State.issue
  simp [h, g, enterOwn_ownCounter, State.timer, State.now]

/-- Settles O24: the tests one by one, then the two outcomes of the issue. -/
theorem claimRequestIsTestedThenIssued : Obligations.ClaimRequestIsTestedThenIssued := by
  refine ⟨fun s k sp n hk => ?_, fun s k sp n tag h => ⟨askClaim_held tag h, askClaim_requesting tag h⟩⟩
  have tests := issueRefusal_eq s sp n hk
  refine ⟨fun a => ?_, fun a b => ?_, fun a b c => ?_, fun a b c d => ?_, fun a b c d e => ?_,
    fun a b c d e f => ?_, fun a b c d e f => ?_, fun tag x => askClaim_of_refused tag⟩
  · rw [tests, if_pos a]
  · rw [tests, if_neg (not_not_intro a), if_pos b]
  · rw [tests, if_neg (not_not_intro a), if_neg (not_not_intro b), if_pos c]
  · rw [tests, if_neg (not_not_intro a), if_neg (not_not_intro b), if_neg (not_not_intro c), if_pos d]
  · rw [tests, if_neg (not_not_intro a), if_neg (not_not_intro b), if_neg (not_not_intro c), if_neg (not_not_intro d),
      if_pos e]
  · rw [tests, if_neg (not_not_intro a), if_neg (not_not_intro b), if_neg (not_not_intro c), if_neg (not_not_intro d),
      if_neg (not_not_intro e), if_pos f]
  · rw [tests, if_neg (not_not_intro a), if_neg (not_not_intro b), if_neg (not_not_intro c), if_neg (not_not_intro d),
      if_neg (not_not_intro e), if_neg (not_not_intro f)]

end Sys2Proof.Machine
end

section
/-! PROOFS. Claims of other stations: the verdict rule, new, repeated and RECOVERY claims (R12 to R15). -/

namespace Sys2Proof.Machine

/-! ## The verdict rule -/

/-- Step 2 of the verdict rule: the bath does not bear the entry, which stands in the table (R13). -/
def State.Refused (s : State) (e : ClaimEntry) : Prop :=
  e.kind = .dip ∧ s.account.state = .synced ∧
    (s.account.balance : Int) - reservations s.claims.table < s.conf.floor

/-- Step 3 of the verdict rule: an own HELD claim, or an own REQUESTING one of an earlier ticket, overlaps the entry
(R13). -/
def State.Crossed (s : State) (e : ClaimEntry) : Prop :=
  ∃ o ∈ s.claims.table, o.origin = s.own ∧ o.span.overlaps e.span = true ∧
    (o.state = .held ∨ (o.isRequesting = true ∧ o.earlier e = true))

theorem refused_iff (s : State) (e : ClaimEntry) :
    s.Refused e ↔
      (e.kind == .dip && s.account.state == .synced && !s.bathTest e.reservation e.reservation) = true := by
  have h := bathTest_iff s e.reservation e.reservation
  rw [Int.add_sub_cancel] at h
  simp only [State.Refused, Bool.and_eq_true, beq_iff_eq, Bool.not_eq_true', and_assoc, ← Int.not_le, ← h,
    Bool.not_eq_true]

theorem crossed_iff (s : State) (e : ClaimEntry) :
    s.Crossed e ↔ s.claims.table.any (fun o => s.isOwn o && o.span.overlaps e.span &&
      (o.state == .held || (o.isRequesting && o.earlier e))) = true := by
  simp [State.Crossed, State.isOwn, and_assoc]

theorem verdictOn_refuse {s : State} {e : ClaimEntry} (h : s.Refused e) : s.verdictOn e = .refuse := by
  unfold State.verdictOn
  rw [if_pos ((refused_iff s e).mp h)]

theorem verdictOn_defer {s : State} {e : ClaimEntry} (h : ¬ s.Refused e) (c : s.Crossed e) :
    s.verdictOn e = .defer := by
  unfold State.verdictOn
  rw [if_neg (mt (refused_iff s e).mpr h), if_pos ((crossed_iff s e).mp c)]

theorem verdictOn_grant {s : State} {e : ClaimEntry} (h : ¬ s.Refused e) (c : ¬ s.Crossed e) :
    s.verdictOn e = .grant := by
  unfold State.verdictOn
  rw [if_neg (mt (refused_iff s e).mpr h), if_neg (mt (crossed_iff s e).mpr c)]

/-! ## What the claims that become HELD leave alone -/

/-- A change of the head job touches Job Control only. -/
theorem updateHead_frame (f : Job → Job) (s : State) : s.updateHead f = { s with jobs := (s.updateHead f).jobs } := by
  unfold State.updateHead; split <;> rfl

/-- A requester told HELD: Job Control and the Sequencer only. -/
theorem tellHeld_frame (n : BitVec 16) (s : State) :
    s.tellHeld n = { s with jobs := (s.tellHeld n).jobs, seq := (s.tellHeld n).seq } := by
  unfold State.tellHeld
  dsimp only
  split
  · rfl
  · split
    · rw [updateHead_frame]; rfl
    · split
      · split <;> rw [updateHead_frame] <;> rfl
      · rfl

/-- What one claim that becomes HELD leaves alone, all of them do. -/
theorem promoteAll_invariant {α : Type} (g : State → α) (h : ∀ s e, g (s.becomeHeld e) = g s) (s : State) :
    g s.promoteAll = g s := by
  have all : ∀ (l : List ClaimEntry) (u : State), g (l.foldl State.becomeHeld u) = g u := by
    intro l
    induction l with
    | nil => exact fun _ => rfl
    | cons e l ih => exact fun u => (ih _).trans (h u e)
  exact all _ s

@[simp] theorem promoteAll_roster (s : State) : s.promoteAll.roster = s.roster :=
  promoteAll_invariant State.roster (fun s e => by unfold State.becomeHeld; rw [tellHeld_frame]; rfl) s

@[simp] theorem promoteAll_accountState (s : State) : s.promoteAll.account.state = s.account.state :=
  promoteAll_invariant (·.account.state) (fun s e => by unfold State.becomeHeld; rw [tellHeld_frame]; rfl) s

@[simp] theorem promoteAll_balance (s : State) : s.promoteAll.account.balance = s.account.balance :=
  promoteAll_invariant (·.account.balance) (fun s e => by unfold State.becomeHeld; rw [tellHeld_frame]; rfl) s

@[simp] theorem makeRoom_roster (o : Rank) (n : BitVec 16) (s : State) : (s.makeRoom o n).roster = s.roster :=
  promoteAll_roster _

@[simp] theorem makeRoom_conf (o : Rank) (n : BitVec 16) (s : State) : (s.makeRoom o n).conf = s.conf := by
  unfold State.conf; rw [makeRoom_roster]

@[simp] theorem makeRoom_own (o : Rank) (n : BitVec 16) (s : State) : (s.makeRoom o n).own = s.own :=
  own_congr (makeRoom_conf o n s)

@[simp] theorem makeRoom_accountState (o : Rank) (n : BitVec 16) (s : State) :
    (s.makeRoom o n).account.state = s.account.state := promoteAll_accountState _

@[simp] theorem makeRoom_balance (o : Rank) (n : BitVec 16) (s : State) :
    (s.makeRoom o n).account.balance = s.account.balance := promoteAll_balance _

/-- An identity that has been made room for does not stand in the table. -/
theorem makeRoom_absent (o : Rank) (n : BitVec 16) (s : State) :
    (o, n) ∉ identities (s.makeRoom o n).claims.table :=
  fun h => removeEntry_absent o n _ ((makeRoom_sublist o n s).subset h)

/-! ## A foreign claim added to the table -/

/-- The bath bears the entry added when it bears the reservation beside those that stand. -/
theorem addClaim_refused_iff (r : State) (e : ClaimEntry) :
    (r.addClaim e).Refused e ↔ e.kind = .dip ∧ r.account.state = .synced ∧
      (r.account.balance : Int) - reservations r.claims.table - e.reservation < r.conf.floor := by
  have sum : reservations (r.claims.table ++ [e]) = reservations r.claims.table + e.reservation := by
    rw [reservations_append]; simp [reservations]
  simp only [State.Refused, State.addClaim, setTable_account, setTable_claims, setTable_conf, sum, Int.natCast_add,
    Int.sub_sub]

/-- A foreign entry crosses nothing itself. -/
theorem addClaim_crossed_iff {r : State} {e : ClaimEntry} (h : e.origin ≠ r.own) :
    (r.addClaim e).Crossed e ↔ r.Crossed e := by
  simp [State.Crossed, State.addClaim, h]

theorem addClaim_ownHeldOverlaps {r : State} {e : ClaimEntry} (h : e.origin ≠ r.own) (sp : Span) :
    (r.addClaim e).ownHeldOverlaps sp = r.ownHeldOverlaps sp := by
  simp [State.ownHeldOverlaps, State.addClaim, State.isOwn, h]

/-- An entry added and put in another state in the same event: it is added in that state. -/
theorem addClaim_putState {r : State} {c : ListedClaim} {o : Rank} (h : (o, c.number) ∉ identities r.claims.table)
    (st x : ClaimState) :
    (r.addClaim (c.entry o st)).setTable
        (putState o c.number x (r.addClaim (c.entry o st)).claims.table) = r.addClaim (c.entry o x) := by
  have put : putState o c.number x (r.claims.table ++ [c.entry o st]) = r.claims.table ++ [c.entry o x] := by
    have added : putState o c.number x [c.entry o st] = [c.entry o x] := by
      simp [putState, ClaimEntry.is, ListedClaim.entry]
    have parts : putState o c.number x (r.claims.table ++ [c.entry o st]) =
        putState o c.number x r.claims.table ++ putState o c.number x [c.entry o st] := List.map_append
    rw [parts, putState_absent h x, added]
  show (r.setTable _).setTable (putState o c.number x (r.claims.table ++ [c.entry o st])) = _
  rw [put]
  exact setTable_setTable (by simp) (by simp)

/-! ## A CLAIM taken -/

/-- An unsound CLAIM raises the ticket counter only. -/
theorem exec_claim_unsound {s : State} {i : BufferId} {f : Frame} {c : ListedClaim} (h : s.Hears i f)
    (hp : f.payload = .claim c) (hs : s.claimSound f.origin c.span = false) :
    exec .claimTaken s = .next ((((s.heard f).raiseTicket c.ticket).freeRx i).finish) := by
  refine exec_claim_of_hears h hp ?_
  unfold State.takeClaim
  dsimp only
  rw [raiseTicket_claimSound, heard_claimSound, hs]
  rfl

/-- A CLAIM that stands in the table is answered. -/
theorem exec_claim_repeated {s : State} {i : BufferId} {f : Frame} {c : ListedClaim} {e : ClaimEntry}
    (h : s.Hears i f) (hp : f.payload = .claim c) (hs : s.claimSound f.origin c.span = true)
    (he : s.entryOf f.origin c.number = some e) (ht : e.ticket = c.ticket) :
    exec .claimTaken s = .next (((((s.heard f).raiseTicket c.ticket).answerRepeat e).freeRx i).finish) := by
  refine exec_claim_of_hears h hp ?_
  unfold State.takeClaim
  dsimp only
  rw [raiseTicket_claimSound, heard_claimSound, hs, raiseTicket_entryOf, heard_entryOf, he]
  exact if_pos ht

/-- A CLAIM that does not stand in the table is a new one. -/
theorem exec_claim_new {s : State} {i : BufferId} {f : Frame} {c : ListedClaim} (h : s.Hears i f)
    (hp : f.payload = .claim c) (hs : s.claimSound f.origin c.span = true)
    (he : ∀ e, s.entryOf f.origin c.number = some e → e.ticket ≠ c.ticket) :
    exec .claimTaken s = .next (((((s.heard f).raiseTicket c.ticket).enterNew f.origin c).freeRx i).finish) := by
  refine exec_claim_of_hears h hp ?_
  unfold State.takeClaim
  dsimp only
  rw [raiseTicket_claimSound, heard_claimSound, hs, raiseTicket_entryOf, heard_entryOf]
  cases x : s.entryOf f.origin c.number with
  | none => rfl
  | some e => exact if_neg (he e x)

/-- The room made for a heard claim, from the table as it was before. -/
theorem makeRoom_heard (s : State) (f : Frame) (c : ListedClaim) :
    ((s.heard f).raiseTicket c.ticket).makeRoom f.origin c.number =
      (((s.heard f).raiseTicket c.ticket).setTable
        (thirdClaim f.origin c.number (removeEntry f.origin c.number s.claims.table))).promoteAll := by
  unfold State.makeRoom
  rw [raiseTicket_claims, heard_claims]

/-! ## A new claim -/

theorem enterNew_noted {s : State} {o : Rank} {c : ListedClaim} (hk : c.kind ≠ .recovery)
    (hm : s.meets c.span = false) :
    s.enterNew o c = (s.makeRoom o c.number).addClaim (c.entry o .noted) := by
  unfold State.enterNew
  rw [if_neg hk, hm]
  rfl

/-- A new claim over this station's reach takes the state of its verdict, which is posted. -/
theorem enterNew_decided {s : State} {o : Rank} {c : ListedClaim} {v : Verdict} (hk : c.kind ≠ .recovery)
    (hm : s.meets c.span = true)
    (hv : ((s.makeRoom o c.number).addClaim (c.entry o .granted)).verdictOn (c.entry o .granted) = v) :
    s.enterNew o c =
      ((s.makeRoom o c.number).addClaim (c.entry o v.entryState)).postVerdict (c.entry o .granted) v := by
  unfold State.enterNew
  dsimp only
  rw [if_neg hk, hm, hv, addClaim_putState (makeRoom_absent o c.number s)]
  rfl

theorem enterNew_recovery {s : State} {o : Rank} {c : ListedClaim} (hk : c.kind = .recovery) :
    s.enterNew o c = ((s.makeRoom o c.number).addClaim (c.entry o .granted)).testConflict o c := by
  unfold State.enterNew
  exact if_pos hk

/-- A verdict goes to the claim's origin, from an ACTIVE station only. -/
theorem postVerdict_eq {s : State} {e : ClaimEntry} {o : Rank} {n : BitVec 16} (ho : e.origin = o) (hn : e.number = n)
    (v : Verdict) :
    s.postVerdict e v =
      if s.roster.state = .active then s.post (.rank o) (.verdict n v (v == .refuse)) else s := by
  unfold State.postVerdict
  rw [ho, hn]

/-- Settles O25: the table made ready for the claim, then one case for each step of the verdict rule. -/
theorem newClaimIsDecided : Obligations.NewClaimIsDecided := by
  intro s i f c h hp hk he takes made enter say refused crossed
  have room : ((s.heard f).raiseTicket c.ticket).makeRoom f.origin c.number = made := makeRoom_heard s f c
  have made_conf : made.conf = s.conf := by
    rw [← room, makeRoom_conf, raiseTicket_conf, heard_conf]
  have made_own : made.own = s.own := own_congr made_conf
  have made_state : made.account.state = s.account.state := by
    rw [← room, makeRoom_accountState, raiseTicket_account, heard_account]
  have made_balance : made.account.balance = s.account.balance := by
    rw [← room, makeRoom_balance, raiseTicket_account, heard_account]
  have made_station : made.roster.state = s.roster.state := by
    rw [← room, makeRoom_roster]
    exact heard_station s f
  have is_refused : (made.addClaim (c.entry f.origin .granted)).Refused (c.entry f.origin .granted) ↔ refused := by
    rw [addClaim_refused_iff, made_state, made_balance, made_conf]
    rfl
  have is_crossed : (made.addClaim (c.entry f.origin .granted)).Crossed (c.entry f.origin .granted) ↔ crossed := by
    rw [addClaim_crossed_iff (by rw [made_own]; exact h.goes.foreign)]
    unfold State.Crossed
    rw [made_own]
    rfl
  have decided (hs : s.claimSound f.origin c.span = true) (hm : s.meets c.span = true) {v : Verdict}
      (hv : (made.addClaim (c.entry f.origin .granted)).verdictOn (c.entry f.origin .granted) = v) :
      takes (say v.entryState v (v == .refuse)) := by
    have entered := exec_claim_new h hp hs he
    rw [enterNew_decided hk (by rw [raiseTicket_meets, heard_meets, hm]) (by rw [room, hv]), room,
      postVerdict_eq rfl rfl] at entered
    have station : (made.addClaim (c.entry f.origin v.entryState)).roster.state = s.roster.state := made_station
    rw [station] at entered
    exact entered
  refine ⟨fun hs hm => ?_, fun hs hm r => ?_, fun hs hm r x => ?_, fun hs hm r x => ?_⟩
  · have entered := exec_claim_new h hp hs he
    rw [enterNew_noted hk (by rw [raiseTicket_meets, heard_meets, hm]), room] at entered
    exact entered
  · exact decided hs hm (verdictOn_refuse (is_refused.mpr r))
  · exact decided hs hm (verdictOn_defer (mt is_refused.mp r) (is_crossed.mpr x))
  · exact decided hs hm (verdictOn_grant (mt is_refused.mp r) (mt is_crossed.mp x))

end Sys2Proof.Machine
end

section
/-! PROOFS. Unsound, repeated, RECOVERY and third claims (R1, R12, R14, R15). -/

namespace Sys2Proof.Machine

/-! ## The third-claim rule -/

theorem sortByTicket_pair (a b : ClaimEntry) : sortByTicket [a, b] = if a.earlier b then [a, b] else [b, a] := rfl

/-- With fewer than two other entries of the origin none goes. -/
theorem thirdClaim_few {o : Rank} {n : BitVec 16} {t : List ClaimEntry}
    (h : (t.filter fun e => e.origin == o && e.number != n).length < 2) : thirdClaim o n t = t := by
  unfold thirdClaim
  have len := sortByTicket_length (t.filter fun e => e.origin == o && e.number != n)
  split
  · rename_i e f rest q
    rw [q, List.length_cons, List.length_cons] at len
    omega
  · rfl

/-- Of two other entries of the origin the earlier goes. -/
theorem thirdClaim_pair {o : Rank} {n : BitVec 16} {t : List ClaimEntry} {a b : ClaimEntry}
    (h : (t.filter fun e => e.origin == o && e.number != n) = [a, b]) :
    thirdClaim o n t =
      t.filter fun e => !(e.origin == o && e.number == (if a.earlier b then a.number else b.number)) := by
  have origin (e : ClaimEntry) (he : e ∈ [a, b]) : e.origin = o := by
    rw [← h] at he
    have := (List.mem_filter.mp he).2
    simp only [Bool.and_eq_true, beq_iff_eq] at this
    exact this.1
  unfold thirdClaim
  rw [h, sortByTicket_pair]
  cases a.earlier b with
  | true => show removeEntry a.origin a.number t = _; rw [origin a (by simp)]; rfl
  | false => show removeEntry b.origin b.number t = _; rw [origin b (by simp)]; rfl

/-! ## Repeated claims -/

theorem answerRepeat_recovery {s : State} {e : ClaimEntry} (h : e.kind = .recovery) : s.answerRepeat e = s := by
  unfold State.answerRepeat; exact if_pos h

/-- A repeated claim of another kind is answered by the verdict that its entry stands for, if it stands for one. -/
theorem answerRepeat_eq {s : State} {e : ClaimEntry} {v : Option Verdict} (h : e.kind ≠ .recovery)
    (hv : s.repeatVerdict e = v) : s.answerRepeat e = v.elim s fun v => s.postVerdict e v := by
  unfold State.answerRepeat
  rw [if_neg h, hv]
  cases v <;> rfl

theorem repeatVerdict_deferred (s : State) {e : ClaimEntry} (h : e.state = .deferred ∨ e.state = .stale .deferred) :
    s.repeatVerdict e = some .defer := by
  unfold State.repeatVerdict; rcases h with h | h <;> rw [h]

theorem repeatVerdict_granted (s : State) {e : ClaimEntry} (h : e.state = .granted ∨ e.state = .stale .granted) :
    s.repeatVerdict e = some .grant := by
  unfold State.repeatVerdict; rcases h with h | h <;> rw [h]

/-- A NOTED entry that this station's reach meets was refused; of another nothing was said. -/
theorem repeatVerdict_noted (s : State) {e : ClaimEntry} (h : e.state = .noted ∨ e.state = .stale .noted) :
    s.repeatVerdict e = if s.meets e.span then some .refuse else none := by
  unfold State.repeatVerdict; rcases h with h | h <;> rw [h]

/-- A repeated claim of another kind is answered at most, in the words of R14. -/
theorem exec_claim_answered {s : State} {i : BufferId} {f : Frame} {c : ListedClaim} {e : ClaimEntry}
    (h : s.Hears i f) (hp : f.payload = .claim c) (hs : s.claimSound f.origin c.span = true)
    (he : s.entryOf f.origin c.number = some e) (ht : e.ticket = c.ticket) (hk : e.kind ≠ .recovery)
    {v : Option Verdict} (hv : ((s.heard f).raiseTicket c.ticket).repeatVerdict e = v) :
    let u := (s.heard f).raiseTicket c.ticket
    exec .claimTaken s = .next ((v.elim u fun v =>
      if s.roster.state = .active then u.post (.rank f.origin) (.verdict c.number v (v == .refuse)) else u).freeRx
        i).finish := by
  obtain ⟨-, origin, number⟩ := entryOf_some he
  have station : ((s.heard f).raiseTicket c.ticket).roster.state = s.roster.state := heard_station s f
  have answered := exec_claim_repeated h hp hs he ht
  simp only [answerRepeat_eq hk hv, postVerdict_eq origin number, station] at answered
  exact answered

theorem testConflict_recovery {o : Rank} {c : ListedClaim} (s : State) (h : c.kind = .recovery) :
    s.testConflict o c =
      if s.ownHeldOverlaps c.span then s.latch .conflict (.recovery o c.number) else s := by
  unfold State.testConflict; rw [h]; rfl

theorem testConflict_other {o : Rank} {c : ListedClaim} (s : State) (h : c.kind ≠ .recovery) :
    s.testConflict o c = s := by
  unfold State.testConflict; simp [h]

/-- Settles O26: by the four parts of its statement. -/
theorem repeatedAndRecoveryClaimsAreTaken : Obligations.RepeatedAndRecoveryClaimsAreTaken := by
  refine ⟨fun s i f c h hp hs => ?_, fun s i f c e h hp hs he ht => ?_, fun s i f c h hp hk hs he => ?_,
    fun o n t => ⟨thirdClaim_few, fun a b => thirdClaim_pair⟩⟩
  · exact exec_claim_unsound h hp hs
  · have meets : ((s.heard f).raiseTicket c.ticket).meets e.span = s.meets e.span := by
      rw [raiseTicket_meets, heard_meets]
    have answered := fun v hk => exec_claim_answered (v := v) h hp hs he ht hk
    refine ⟨fun hk => ?_, fun hk st => ?_, fun hk st => ?_, fun hk st hm => ?_, fun hk st hm => ?_⟩
    · rw [exec_claim_repeated h hp hs he ht, answerRepeat_recovery hk]
    · exact answered (some .defer) hk (repeatVerdict_deferred _ st)
    · exact answered (some .grant) hk (repeatVerdict_granted _ st)
    · exact answered (some .refuse) hk ((repeatVerdict_noted _ st).trans (by rw [meets, hm]; rfl))
    · exact answered none hk ((repeatVerdict_noted _ st).trans (by rw [meets, hm]; rfl))
  · intro made u
    have room : ((s.heard f).raiseTicket c.ticket).makeRoom f.origin c.number = made := makeRoom_heard s f c
    have own : made.own = s.own := by rw [← room, makeRoom_own, raiseTicket_own, heard_own]
    have entered : made.addClaim (c.entry f.origin .granted) = u := by
      show made.setTable (_ ++ [⟨_, _, c.kind, _, _, _, _, _⟩]) = u
      rw [hk]
    have held : u.ownHeldOverlaps c.span = made.ownHeldOverlaps c.span := by
      rw [← entered]
      exact addClaim_ownHeldOverlaps (by rw [own]; exact h.goes.foreign) _
    have taken := exec_claim_new h hp hs he
    rw [enterNew_recovery hk, room, entered, testConflict_recovery u hk, held] at taken
    refine ⟨fun x => ?_, fun x => ?_⟩
    · rw [taken, x, if_pos rfl]
    · rw [taken, x, if_neg Bool.false_ne_true]

end Sys2Proof.Machine
end

section
/-! PROOFS. A VACATE, a RELEASE and a claim that ends, and re-evaluation (R20 to R23, R28). -/

namespace Sys2Proof.Machine

/-! ## VACATE -/

theorem rankOfCode_of_val {n : Nat} {r : Rank} (h : r.val = n) : rankOfCode n = some r := by
  subst h; exact dif_pos r.isLt

theorem rankOfCode_some {n : Nat} {r : Rank} (h : rankOfCode n = some r) : r.val = n := by
  unfold rankOfCode at h
  split at h
  · cases h; rfl
  · cases h

theorem vacate_notActive {s : State} (n : Nat) (h : s.roster.state ≠ .active) : s.vacate n = s.notActive := by
  unfold State.vacate; exact if_pos h

/-- The request names no rank, this station's own, or one without a reach. -/
theorem vacate_invalid {s : State} {n : Nat} (h : s.roster.state = .active)
    (hr : ∀ r : Rank, r.val = n → r = s.own ∨ s.reachOf r = none) : s.vacate n = s.invalid := by
  unfold State.vacate
  rw [if_neg (not_not_intro h)]
  cases x : rankOfCode n with
  | none => rfl
  | some r => exact if_pos ((hr r (rankOfCode_some x)).imp id Option.isNone_iff_eq_none.mpr)

theorem vacate_done {s : State} {n : Nat} {r : Rank} (h : s.roster.state = .active) (hr : r.val = n)
    (ho : r ≠ s.own) (hs : s.reachOf r ≠ none) :
    s.vacate n = ((s.vacateRank r).post .all (.vacate r)).ok (.count (s.staleOf r).length) := by
  unfold State.vacate
  rw [if_neg (not_not_intro h), rankOfCode_of_val hr]
  exact if_neg (by rw [Option.isNone_iff_eq_none]; exact not_or.mpr ⟨ho, hs⟩)

/-- Settles O28: the frame, then the three outcomes of the request. -/
theorem vacateRemovesStaleEntries : Obligations.VacateRemovesStaleEntries := by
  refine ⟨fun s i f r h hp => ⟨fun ho => ?_, fun ho => ?_⟩, fun s n h => ?_⟩
  · refine exec_vacate_of_hears h hp ?_
    rw [heard_own, if_neg ho, State.vacateRank, heard_claims]
  · refine exec_vacate_of_hears h hp ?_
    rw [heard_own, if_pos ho]
  · have worked : exec (.vacate n) s = .next ((s.working (.vacate n)).vacate n).finish :=
      request_of_listens h (.vacate n) (State.vacate n)
    intro w
    rw [worked]
    refine ⟨fun a => ?_, fun a hr => ?_, fun r a hr ho hs => ?_⟩
    · rw [vacate_notActive n (s := s.working (.vacate n)) a]
    · rw [vacate_invalid (s := s.working (.vacate n)) a hr]
    · rw [vacate_done (s := s.working (.vacate n)) a hr ho hs]
      rfl

/-! ## A claim that ends -/

theorem endClaim_absent {s : State} {n : BitVec 16} (h : s.entryOf s.own n = none) : s.endClaim n = s := by
  unfold State.endClaim; rw [h]

theorem endClaim_present {s : State} {n : BitVec 16} (h : (s.entryOf s.own n).isSome = true) :
    s.endClaim n =
      ((s.post .all (.release n)).setTable (removeEntry s.own n s.claims.table)).reevaluate := by
  obtain ⟨e, he⟩ := Option.isSome_iff_exists.mp h
  unfold State.endClaim
  rw [he]
  simp only [post_own, post_claims]

/-- A RELEASE of an entry: the entry gone, its sender's marks unanswered again, as one change of the table. -/
theorem takeRelease_present {s : State} {o : Rank} {n : BitVec 16} (h : (s.entryOf o n).isSome = true) :
    s.takeRelease o n =
      s.setTable ((removeEntry o n s.claims.table).map (ClaimEntry.mapGrants (markRank o .unanswered))) := by
  obtain ⟨e, he⟩ := Option.isSome_iff_exists.mp h
  obtain ⟨mem, origin, number⟩ := entryOf_some he
  unfold State.takeRelease
  rw [he]
  exact setTable_filter_map _ ⟨e, mem, by simp [ClaimEntry.is, origin, number]⟩

theorem takeRelease_absent {s : State} {o : Rank} {n : BitVec 16} (h : s.entryOf o n = none) :
    s.takeRelease o n = s := by
  unfold State.takeRelease; rw [h]

/-! ## Entries in ticket order -/

theorem earlier_trans {a b c : ClaimEntry} (h : a.earlier b = true) (k : b.earlier c = true) :
    a.earlier c = true := ticketEarlier_trans h k

theorem earlier_asymm {a b : ClaimEntry} (h : a.earlier b = true) : ¬ b.earlier a = true := by
  intro k
  have := earlier_trans h k
  rw [ClaimEntry.earlier, ticketEarlier_irrefl] at this
  cases this

theorem insertByTicket_perm (e : ClaimEntry) : ∀ l, (insertByTicket e l).Perm (e :: l)
  | [] => List.Perm.refl _
  | f :: l => by
      unfold insertByTicket
      split
      · exact List.Perm.refl _
      · exact ((insertByTicket_perm e l).cons f).trans (List.Perm.swap e f l)

theorem sortByTicket_perm : ∀ l, (sortByTicket l).Perm l
  | [] => List.Perm.refl _
  | e :: l => (insertByTicket_perm e (sortByTicket l)).trans ((sortByTicket_perm l).cons e)

/-- An entry put among entries in ticket order, of which none is its equal, leaves them in ticket order. -/
theorem insertByTicket_pairwise (e : ClaimEntry) : ∀ {l : List ClaimEntry},
    l.Pairwise (fun a b => a.earlier b = true) → (∀ f ∈ l, e.earlier f = true ∨ f.earlier e = true) →
      (insertByTicket e l).Pairwise fun a b => a.earlier b = true
  | [], _, _ => List.pairwise_singleton _ _
  | f :: l, h, k => by
      obtain ⟨first, rest⟩ := List.pairwise_cons.mp h
      unfold insertByTicket
      split
      · rename_i lt
        refine List.pairwise_cons.mpr ⟨fun g hg => ?_, h⟩
        rcases List.mem_cons.mp hg with rfl | hg
        · exact lt
        · exact earlier_trans lt (first g hg)
      · rename_i ge
        have back : f.earlier e = true := (k f List.mem_cons_self).resolve_left ge
        refine List.pairwise_cons.mpr ⟨fun g hg => ?_,
          insertByTicket_pairwise e rest fun g hg => k g (List.mem_cons_of_mem _ hg)⟩
        rcases insertByTicket_mem e g l hg with rfl | hg
        · exact back
        · exact first g hg

theorem sortByTicket_pairwise : ∀ {l : List ClaimEntry},
    l.Pairwise (fun a b => a.earlier b = true ∨ b.earlier a = true) →
      (sortByTicket l).Pairwise fun a b => a.earlier b = true
  | [], _ => List.Pairwise.nil
  | _ :: _, h => by
      obtain ⟨first, rest⟩ := List.pairwise_cons.mp h
      exact insertByTicket_pairwise _ (sortByTicket_pairwise rest) fun f hf => first f (sortByTicket_mem hf)

/-- A list in strict ticket order is what sorting any arrangement of it gives. -/
theorem sortByTicket_eq {l m : List ClaimEntry} (h : l.Perm m) (k : l.Pairwise fun a b => a.earlier b = true) :
    sortByTicket m = l := by
  have comparable : m.Pairwise fun a b => a.earlier b = true ∨ b.earlier a = true :=
    (h.pairwise_iff Or.symm).mp (k.imp Or.inl)
  exact List.Perm.eq_of_pairwise (fun a b _ _ x y => absurd y (earlier_asymm x)) (sortByTicket_pairwise comparable) k
    ((sortByTicket_perm m).trans h.symm)

/-! ## Re-evaluation -/

theorem decideAgain_stale {s : State} {e : ClaimEntry} {p : PriorState} {v : Verdict} (h : e.state = .stale p)
    (hv : s.verdictOn e = v) :
    s.decideAgain e = s.setTable (putState e.origin e.number (.stale v.priorState) s.claims.table) := by
  unfold State.decideAgain; rw [h, hv]

theorem decideAgain_deferred {s : State} {e : ClaimEntry} {v : Verdict} (h : e.state = .deferred)
    (hv : s.verdictOn e = v) :
    s.decideAgain e =
      if v = .defer then s.setTable (putState e.origin e.number v.entryState s.claims.table)
      else (s.setTable (putState e.origin e.number v.entryState s.claims.table)).postVerdict e v := by
  unfold State.decideAgain; rw [h, hv]

/-- Settles O30: by the four parts of its statement. -/
theorem endedClaimIsReleasedAndDeferredOnesDecided : Obligations.EndedClaimIsReleasedAndDeferredOnesDecided := by
  refine ⟨fun s n => ⟨endClaim_absent, endClaim_present⟩, fun s i f n h hp => ⟨fun he => ?_, fun he => ?_⟩,
    fun s l hl hs => ?_, fun s e => ?_⟩
  · refine exec_release_of_hears h hp ((takeRelease_present ?_).trans (by rw [heard_claims]; rfl))
    rw [heard_entryOf, he]
  · exact exec_release_of_hears h hp (takeRelease_absent (by rw [heard_entryOf, he]))
  · exact congrArg (List.foldl State.decideAgain s) (sortByTicket_eq hl hs)
  · refine ⟨fun st r => ?_, fun st r x => ?_, fun st r x => ?_, fun st r => ?_, fun st r x => ?_, fun st r x => ?_⟩
    · exact decideAgain_deferred st (verdictOn_refuse r)
    · exact decideAgain_deferred st (verdictOn_defer r x)
    · exact decideAgain_deferred st (verdictOn_grant r x)
    · exact decideAgain_stale st (verdictOn_refuse r)
    · exact decideAgain_stale st (verdictOn_defer r x)
    · exact decideAgain_stale st (verdictOn_grant r x)

end Sys2Proof.Machine
end

section
/-! PROOFS. A STATE and a JOIN (R7, R18, R27, R175). -/

namespace Sys2Proof.Machine

/-- Tickets raised by the claims a frame lists touch the ticket counter only. -/
theorem raiseTickets_claims (l : List ListedClaim) (s : State) :
    (l.foldl (fun u c => u.raiseTicket c.ticket) s).claims = s.claims := by
  induction l generalizing s with
  | nil => rfl
  | cons c l ih => exact ih _

theorem takeState_eq (s : State) (o : Rank) (n : Nat) (l : List ListedClaim) :
    s.takeState o n l =
      (l.foldl (State.enterListed o) ((l.foldl (fun u c => u.raiseTicket c.ticket) (s.raiseTicket n)).setTable
        (s.claims.table.filter fun e => e.origin != o || (l.map (·.number)).contains e.number)).promoteAll).unmark o := by
  have listed (e : ClaimEntry) : (l.any fun c => c.number == e.number) = (l.map (·.number)).contains e.number := by
    rw [List.contains_eq_any_beq, List.any_map]
    exact congrArg l.any (funext fun c => Bool.beq_comm)
  unfold State.takeState
  simp only [raiseTickets_claims, listed, raiseTicket_claims]

/-! ## One listed claim -/

/-- The claim stands in the table, and not STALE. -/
theorem stands_iff (s : State) (o : Rank) (c : ListedClaim) :
    (s.claims.table.any fun e => e.is o c.number && e.ticket == c.ticket && !e.isStale) = true ↔
      ∃ e ∈ s.claims.table, e.origin = o ∧ e.number = c.number ∧ e.ticket = c.ticket ∧ e.isStale = false := by
  simp [ClaimEntry.is, and_assoc]

theorem enterListed_unsound {s : State} {o : Rank} {c : ListedClaim} (h : s.claimSound o c.span = false) :
    s.enterListed o c = s := by
  unfold State.enterListed; rw [h]; rfl

theorem enterListed_stands {s : State} {o : Rank} {c : ListedClaim}
    (h : ∃ e ∈ s.claims.table, e.origin = o ∧ e.number = c.number ∧ e.ticket = c.ticket ∧ e.isStale = false) :
    s.enterListed o c = s := by
  unfold State.enterListed
  rw [(stands_iff s o c).mpr h]
  exact ite_self s

/-- A listed claim that is new to the station: entered, and its CONFLICT tested. -/
theorem enterListed_new {s : State} {o : Rank} {c : ListedClaim} (hs : s.claimSound o c.span = true)
    (h : ¬ ∃ e ∈ s.claims.table, e.origin = o ∧ e.number = c.number ∧ e.ticket = c.ticket ∧ e.isStale = false) :
    s.enterListed o c =
      ((s.setTable (removeEntry o c.number s.claims.table)).promoteAll.addClaim (c.entry o
        (if c.kind = .recovery ∨ s.meets c.span then .granted else .noted))).testConflict o c := by
  unfold State.enterListed
  rw [hs, Bool.eq_false_iff.mpr (mt (stands_iff s o c).mp h)]
  rfl

/-- Settles O29: by the three parts of its statement. -/
theorem stateSweepsAndJoinIsAnswered : Obligations.StateSweepsAndJoinIsAnswered := by
  refine ⟨fun s i f id n a l h hp => ?_, fun s o c => ⟨enterListed_unsound, fun _ => enterListed_stands,
    fun hs new hk => ?_, fun hs new hk => ?_⟩, fun s i f id h hp => ?_⟩
  · refine exec_state_of_hears h hp ((takeState_eq _ _ _ _).trans ?_)
    rw [heard_claims]
    rfl
  · rw [enterListed_new hs new, testConflict_other _ hk]
    simp only [hk, false_or]
    rfl
  · have entered := enterListed_new hs new
    rw [testConflict_recovery _ hk, if_pos (Or.inl hk)] at entered
    exact ⟨fun x => entered.trans (if_pos x), fun x => entered.trans (if_neg (Bool.eq_false_iff.mp x))⟩
  · refine exec_join_of_hears h hp ?_
    unfold State.postState State.ownEntries State.isOwn
    rw [heard_identityFields, heard_ticketCounter, heard_account, heard_claims, heard_own]
    rfl

end Sys2Proof.Machine
end

section
/-! PROOFS. A BEACON: the sweep by its census, the gap check, the split check (R7, R24, R38, R40, R47, R48, R53). -/

namespace Sys2Proof.Machine

/-! ## The census -/

/-- Nothing to sweep: the ticket counter alone rises. -/
theorem censusRepair_none {s : State} {o : Rank} {b : BeaconFields} (h : ∀ e ∈ s.claims.table, swept o b e = false) :
    s.censusRepair o b = s.raiseTicket b.ticketCounter := by
  unfold State.censusRepair
  exact if_neg (by simpa using h)

/-- The entries swept, and the sender's marks unanswered again, as one change of the table. -/
theorem censusRepair_some {s : State} {o : Rank} {b : BeaconFields} (h : ∃ e ∈ s.claims.table, swept o b e = true) :
    s.censusRepair o b = (s.raiseTicket b.ticketCounter).setTable
      ((s.claims.table.filter fun e => !swept o b e).map (ClaimEntry.mapGrants (markRank o .unanswered))) := by
  unfold State.censusRepair
  refine (if_pos (by simpa using h)).trans ?_
  obtain ⟨e, he, hs⟩ := h
  exact setTable_filter_map (s := s.raiseTicket b.ticketCounter) _ ⟨e, he, by simp [hs]⟩

/-! ## The gap check -/

theorem applying_congr {s t : State} (h : t.account.state = s.account.state) : t.applying = s.applying := by
  unfold State.applying; rw [h]

theorem trimRetained_live {s : State} {r : Rank} (h : s.roster.peers[r].live = true) :
    s.trimRetained r = s.setAccount { s.account with
      retained := s.account.retained.filter fun e => decide (leastOf (s.livePeers.map s.peerSeen) < e.seq) } := by
  unfold State.trimRetained; exact if_pos h

theorem gapCheck_notApplying {s : State} (r : Rank) (n : Nat) (h : s.applying = false) : s.gapCheck r n = s := by
  unfold State.gapCheck; rw [h]; rfl

/-- Nothing is missing and no record is open. -/
theorem gapCheck_closed {s : State} {r : Rank} {n : Nat} (h : s.applying = true) (hg : s.account.gaps[r] = none)
    (hn : n ≤ s.account.applied[r]) : s.gapCheck r n = s := by
  unfold State.gapCheck
  rw [h, if_neg (Nat.not_lt.mpr hn), hg]
  rfl

/-- The first of the entries that are missing opens a record. -/
theorem gapCheck_opens {s : State} {r : Rank} {n : Nat} (h : s.applying = true) (hg : s.account.gaps[r] = none)
    (hn : s.account.applied[r] < n) : s.gapCheck r n = (s.askGap r n).becomeGapped := by
  unfold State.gapCheck
  rw [h, if_pos hn, hg]
  rfl

/-- A record open though nothing is missing: the station has lost its count, and rebases. -/
theorem gapCheck_rebases {s : State} {r : Rank} {n : Nat} {g : OpenGap} (h : s.applying = true)
    (hg : s.account.gaps[r] = some g) (hn : n ≤ s.account.applied[r]) : s.gapCheck r n = s.beginRebase none := by
  unfold State.gapCheck
  rw [h, if_neg (Nat.not_lt.mpr hn), hg]
  rfl

/-- A record open and entries missing: its target rises, and the time of its last request is looked at. -/
theorem gapCheck_open {s : State} {r : Rank} {n : Nat} {g : OpenGap} (h : s.applying = true)
    (hg : s.account.gaps[r] = some g) (hn : s.account.applied[r] < n) :
    s.gapCheck r n = (s.setGap r (some { g with target := max g.target n })).resendGap r
      { g with target := max g.target n } := by
  unfold State.gapCheck
  rw [h, if_pos hn, hg]
  rfl

theorem setGap_setGap (s : State) (r : Rank) (g k : Option OpenGap) : (s.setGap r g).setGap r k = s.setGap r k := by
  unfold State.setGap
  simp only [Vector.set_set]

/-- Asking sets the record anew, whatever it held. -/
theorem askGap_setGap (s : State) (r : Rank) (g : Option OpenGap) (n : Nat) :
    (s.setGap r g).askGap r n = s.askGap r n := by
  unfold State.askGap; rw [setGap_setGap]; rfl

/-- A record open and entries missing: its target rises, and a beacon period after its last request it is asked again. -/
theorem gapCheck_late {s : State} {r : Rank} {n : Nat} {g : OpenGap} (h : s.applying = true)
    (hg : s.account.gaps[r] = some g) (hn : s.account.applied[r] < n)
    (late : s.conf.beaconPeriod ≤ (s.time.clock - g.lastRequest).toNat) :
    s.gapCheck r n = s.askGap r (max g.target n) := by
  rw [gapCheck_open h hg hn]
  exact (if_pos late).trans (askGap_setGap s r _ _)

theorem gapCheck_early {s : State} {r : Rank} {n : Nat} {g : OpenGap} (h : s.applying = true)
    (hg : s.account.gaps[r] = some g) (hn : s.account.applied[r] < n)
    (early : (s.time.clock - g.lastRequest).toNat < s.conf.beaconPeriod) :
    s.gapCheck r n = s.setGap r (some { g with target := max g.target n }) := by
  rw [gapCheck_open h hg hn]
  exact if_neg (Nat.not_le.mpr early)

/-! ## The split check -/

/-- The accounts have split: all the same entries, and another balance (R53). -/
theorem splitCheck_iff (s : State) (b : BeaconFields) :
    (s.applying && (b.account == .synced || b.account == .gapped) && b.applied == s.account.applied &&
      b.balance != s.account.balance) = true ↔
      s.applying = true ∧ (b.account = .synced ∨ b.account = .gapped) ∧ b.applied = s.account.applied ∧
        b.balance ≠ s.account.balance := by
  simp [and_assoc]

theorem splitCheck_notApplying {s : State} (r : Rank) (b : BeaconFields) (h : s.applying = false) :
    s.splitCheck r b = s := by
  unfold State.splitCheck; rw [h]; rfl

/-- After a rebase has begun the account is REBASING. -/
theorem beginRebase_notApplying (r : Option Rank) (s : State) : (s.beginRebase r).applying = false := by
  have fetch (t : State) (q : Option Rank) : (t.fetchFrom q).account.state = t.account.state := by
    unfold State.fetchFrom
    cases q <;> simp
  unfold State.beginRebase
  exact applying_congr (fetch _ _)

/-! ## The least that every live peer has -/

theorem mem_livePeers (s : State) (r : Rank) :
    r ∈ s.livePeers ↔ r ≠ s.own ∧ s.roster.peers[r].live = true := by
  have every : r ∈ allRanks := by revert r; decide
  unfold State.livePeers
  simp [every]

theorem leastOf_le : ∀ {l : List Nat} {n : Nat}, n ∈ l → leastOf l ≤ n
  | [_], _, h => Nat.le_of_eq (List.mem_singleton.mp h).symm
  | a :: b :: l, n, h => by
      unfold leastOf
      rcases List.mem_cons.mp h with rfl | h
      · exact Nat.min_le_left _ _
      · exact Nat.le_trans (Nat.min_le_right _ _) (leastOf_le h)

theorem leastOf_mem : ∀ {l : List Nat}, l ≠ [] → leastOf l ∈ l
  | [_], _ => List.mem_singleton.mpr rfl
  | a :: b :: l, _ => by
      unfold leastOf
      rcases Nat.le_total a (leastOf (b :: l)) with h | h
      · rw [Nat.min_eq_left h]; exact List.mem_cons_self
      · rw [Nat.min_eq_right h]; exact List.mem_cons_of_mem _ (leastOf_mem (List.cons_ne_nil b l))

/-! ## The obligation -/

/-- The account's part of a BEACON, once the gap check is known. -/
theorem accountBeacon_of_gapCheck {s t : State} {r : Rank} (b : BeaconFields) (h : s.roster.peers[r].live = true)
    (hg : (s.setAccount { s.account with
      retained := s.account.retained.filter fun e =>
        decide (leastOf (s.livePeers.map s.peerSeen) < e.seq) }).gapCheck r b.ownSeq = t) :
    s.accountBeacon r b = t.splitCheck r b := by
  unfold State.accountBeacon
  rw [trimRetained_live h, hg]

/-- Settles O37: by the four parts of its statement. -/
theorem beaconSweepsAndChecksGapsAndSplit : Obligations.BeaconSweepsAndChecksGapsAndSplit := by
  refine ⟨fun s i f id b h hp => ⟨fun kept => ?_, fun gone => ?_⟩, fun s r b live => ?_, fun s => ?_, fun s r b => ?_⟩
  · exact exec_beacon_of_hears h hp (congrArg (State.accountBeacon f.origin b)
      (censusRepair_none (by rw [heard_claims]; exact kept)))
  · refine exec_beacon_of_hears h hp (congrArg (State.accountBeacon f.origin b)
      ((censusRepair_some (by rw [heard_claims]; exact gone)).trans ?_))
    rw [heard_claims]
    rfl
  · intro least u ask gapped
    have checked {t : State} (hg : u.gapCheck r b.ownSeq = t) : s.accountBeacon r b = t.splitCheck r b :=
      accountBeacon_of_gapCheck b live hg
    have asks (n : Nat) : u.askGap r n = ask n := rfl
    refine ⟨fun a => ?_, fun a g n => checked (gapCheck_closed (s := u) a g n), fun a g n => ?_, fun g a hg n => ?_,
      fun g a hg n late => checked (gapCheck_late (s := u) a hg n late),
      fun g a hg n early => checked (gapCheck_early (s := u) a hg n early)⟩
    · exact (checked (gapCheck_notApplying (s := u) r _ a)).trans (splitCheck_notApplying r b a)
    · refine checked ((gapCheck_opens (s := u) a g n).trans ?_)
      rw [asks]
      unfold State.becomeGapped
      rw [post_account]
      rfl
    · exact (checked (gapCheck_rebases (s := u) a hg n)).trans
        (splitCheck_notApplying r b (beginRebase_notApplying none u))
  · have seen (r : Rank) (hr : r ≠ s.own ∧ s.roster.peers[r].live = true) : s.peerSeen r ∈ s.livePeers.map s.peerSeen :=
      List.mem_map_of_mem ((mem_livePeers s r).mpr hr)
    refine ⟨mem_livePeers s, fun r b hb => ?_, fun r hb => ?_, fun r hr => leastOf_le (seen r hr), fun ⟨r, hr⟩ => ?_⟩
    · unfold State.peerSeen; rw [hb]
    · unfold State.peerSeen; rw [hb]
    · obtain ⟨q, hq, e⟩ := List.mem_map.mp (leastOf_mem (List.ne_nil_of_mem (seen r hr)))
      exact ⟨q, (mem_livePeers s q).mp hq, e.symm⟩
  · refine ⟨fun no => ?_, fun yes lower => ?_, fun yes higher => ?_⟩ <;> unfold State.splitCheck
    · exact if_neg (mt (splitCheck_iff s b).mp no)
    · exact (if_pos ((splitCheck_iff s b).mpr yes)).trans (if_pos lower)
    · exact (if_pos ((splitCheck_iff s b).mpr yes)).trans (if_neg higher)

end Sys2Proof.Machine
end

section
/-! PROOFS. The grant set: verdicts collected, the answer window, and claims that become HELD (R16 to R19, R78, R106). -/

namespace Sys2Proof.Machine

/-! ## A VERDICT taken -/

/-- A verdict that is awaited: the claim stands REQUESTING and its sender in the grant set. -/
theorem takeVerdict_awaited {s : State} {o : Rank} {n : BitVec 16} {told : State → State} {e : ClaimEntry}
    {g : List GrantSlot} {k : Nat} {w : Timer} (he : s.entryOf s.own n = some e) (hs : e.state = .requesting g k w)
    (hx : ∃ x ∈ g, x.rank = o) (v : Verdict) :
    s.takeVerdict o n v told =
      match v with
      | .grant => s.setTable (putState s.own n (.requesting (dropRank o g) k w) s.claims.table)
      | .defer => s.setTable (putState s.own n (.requesting (markRank o .deferred g) k w) s.claims.table)
      | .refuse => told (s.endClaim n) := by
  unfold State.takeVerdict
  rw [he]
  dsimp only
  rw [hs]
  refine (if_pos (by simpa using hx)).trans ?_
  cases v <;> rfl

/-- Any other verdict is ignored. -/
theorem takeVerdict_ignored {s : State} {o : Rank} {n : BitVec 16} {v : Verdict} {told : State → State}
    (h : ∀ e g k w, s.entryOf s.own n = some e → e.state = .requesting g k w → ∀ x ∈ g, x.rank ≠ o) :
    s.takeVerdict o n v told = s := by
  unfold State.takeVerdict
  split
  · rename_i e he
    split
    · rename_i g k w hs
      exact if_neg (by simpa using h e g k w he hs)
    · rfl
  · rfl

/-! ## The answer window -/

theorem windowOf_requesting {s : State} {n : BitVec 16} {e : ClaimEntry} {g : List GrantSlot} {k : Nat} {w : Timer}
    (he : s.entryOf s.own n = some e) (hs : e.state = .requesting g k w) : s.windowOf n = some (e, w) := by
  unfold State.windowOf
  rw [he]
  dsimp only
  rw [hs]

/-- A window that has run out: the claim is looked at again. -/
theorem exec_answerWindow_of_due {s : State} {n : BitVec 16} {e : ClaimEntry} {g : List GrantSlot} {k : Nat} {w : Timer}
    (he : s.entryOf s.own n = some e) (hs : e.state = .requesting g k w) (hw : w.due s.time.clock = true) :
    exec (.answerWindowExpiry n) s = .next (s.resendClaim e) := by
  show execAnswerWindowExpiry n s = _
  unfold execAnswerWindowExpiry
  rw [windowOf_requesting he hs]
  dsimp only
  rw [reachExpiry_of_due hw]

theorem resendClaim_unanswered {s : State} {e : ClaimEntry} {g : List GrantSlot} {k : Nat} {w : Timer}
    (hs : e.state = .requesting g k w) (h : ∃ x ∈ g, x.mark = .unanswered) :
    s.resendClaim e = (s.setTable (putState e.origin e.number
      (.requesting g (satInc k) ⟨s.time.clock, s.conf.answerWindow⟩) s.claims.table)).post .all e.frame := by
  unfold State.resendClaim
  rw [hs]
  exact if_pos (by simpa using h)

theorem resendClaim_deferred {s : State} {e : ClaimEntry} {g : List GrantSlot} {k : Nat} {w : Timer}
    (hs : e.state = .requesting g k w) (h : ∀ x ∈ g, x.mark = .deferred) :
    s.resendClaim e = s.setTable (putState e.origin e.number
      (.requesting g k ⟨s.time.clock, s.conf.answerWindow⟩) s.claims.table) := by
  unfold State.resendClaim
  rw [hs]
  refine if_neg ?_
  simp only [List.any_eq_true, beq_iff_eq, not_exists, not_and]
  intro x hx e
  rw [h x hx] at e
  cases e

/-! ## The requester told -/

theorem updateHead_seq (f : Job → Job) (s : State) : (s.updateHead f).seq = s.seq := by rw [updateHead_frame]

theorem inNegotiation_iff (s : State) :
    s.inNegotiation = true ↔ s.seq.activity = .segment ∧ s.seq.phase = some .negotiating := by
  simp [State.inNegotiation]

/-- A SHIFT in NEGOTIATING goes on to another phase, told of its claim by a change that leaves the Sequencer alone. -/
theorem phase_if_negotiating {s t : State} (h : t.seq = s.seq) (p : Phase) :
    (s.seq.activity = .segment ∧ s.seq.phase = some .negotiating →
      (if t.inNegotiation then t.setPhase p else t) = t.setSeq { s.seq with phase := some p }) ∧
    (¬(s.seq.activity = .segment ∧ s.seq.phase = some .negotiating) →
      (if t.inNegotiation then t.setPhase p else t) = t) := by
  rw [← h]
  refine ⟨fun n => ?_, fun n => ?_⟩
  · exact if_pos ((inNegotiation_iff t).mpr n)
  · exact if_neg (mt (inNegotiation_iff t).mp n)

theorem tellRefused_none {s : State} (n : BitVec 16) (h : s.activeJob = none) : s.tellRefused n = s := by
  unfold State.tellRefused; rw [h]

theorem tellRefused_some {s : State} (n : BitVec 16) {j : Job} (h : s.activeJob = some j) :
    s.tellRefused n =
      if j.claim = some ⟨n, false⟩ then s.updateHead fun k => { k with state := .waitBath, claim := none }
      else if j.shiftClaim = some ⟨n, false⟩ then
        if (s.updateHead fun k => { k with shiftClaim := none }).inNegotiation then
          (s.updateHead fun k => { k with shiftClaim := none }).setPhase .waiting
        else s.updateHead fun k => { k with shiftClaim := none }
      else s := by
  unfold State.tellRefused; rw [h]

theorem tellHeld_none {s : State} (n : BitVec 16) (h : s.activeJob = none) : s.tellHeld n = s := by
  unfold State.tellHeld; rw [h]

theorem tellHeld_some {s : State} (n : BitVec 16) {j : Job} (h : s.activeJob = some j) :
    let t := (s.updateHead fun k => { k with shiftClaim := some ⟨n, true⟩ }).setClaimWait none
    s.tellHeld n =
      if j.claim = some ⟨n, false⟩ then
        (s.updateHead fun k => { k with claim := some ⟨n, true⟩ }).setClaimWait none
      else if j.shiftClaim = some ⟨n, false⟩ then
        if t.inNegotiation then t.setPhase .held else t
      else s := by
  unfold State.tellHeld; rw [h]

/-! ## Claims that become HELD -/

/-- An own REQUESTING entry, its grant set empty, and no STALE entry over its span (R18). -/
theorem promotable_iff (s : State) (e : ClaimEntry) :
    s.promotable e = true ↔ e.origin = s.own ∧ (∃ n w, e.state = .requesting [] n w) ∧
      ∀ x ∈ s.claims.table, x.isStale = true → x.span.overlaps e.span = false := by
  rw [← staleOverlaps_false_iff]
  unfold State.promotable State.isOwn
  split
  · rename_i n w st
    simp [st]
  · rename_i other
    have no : ¬ ∃ n w, e.state = .requesting [] n w := fun ⟨n, w, st⟩ => other n w st
    simp [no]

theorem becomeHeld_own {s : State} {e : ClaimEntry} {o : Rank} (h : e.origin = o) :
    s.becomeHeld e = (s.setTable (putState o e.number .held s.claims.table)).tellHeld e.number := by
  unfold State.becomeHeld; rw [h]

/-- The claim that `promote` turns HELD is one that may become so. -/
theorem promote_some {s t : State} (h : s.promote = some t) :
    ∃ e ∈ s.claims.table, s.promotable e = true ∧ s.becomeHeld e = t := by
  obtain ⟨e, he, ht⟩ := Option.map_eq_some_iff.mp h
  exact ⟨e, List.mem_of_find?_eq_some he, List.find?_some he, ht⟩

theorem promote_none {s : State} (h : s.promote = none) : ∀ e ∈ s.claims.table, ¬ s.promotable e = true := by
  have none := Option.map_eq_none_iff.mp h
  exact List.find?_eq_none.mp none

theorem orNext_none {a : Option State} {b : Unit → Option State} (h : orNext a b = none) : a = none ∧ b () = none := by
  cases a with
  | none => exact ⟨rfl, h⟩
  | some s => cases h

/-- In a settled state no claim is left that may become HELD. -/
theorem promote_of_settled {s : State} (h : s.Settled) : s.promote = none :=
  (orNext_none (orNext_none h).2).1

/-- The claims that may become HELD, in the order of the table, are those that do. -/
theorem promoteAll_eq {s : State} {l : List ClaimEntry} (h : s.claims.table.filter s.promotable = l) :
    s.promoteAll = l.foldl State.becomeHeld s := by
  unfold State.promoteAll; rw [h]

/-- Entries of a list that pass a test, one of which is known. -/
theorem filter_one {α : Type} {p : α → Bool} {l m : List α} {a : α} (ha : p a = true)
    (h : ∀ e ∈ l ++ m, ¬ p e = true) : (l ++ a :: m).filter p = [a] := by
  have hl : l.filter p = [] := List.filter_eq_nil_iff.mpr fun e he => h e (List.mem_append_left _ he)
  have hm : m.filter p = [] := List.filter_eq_nil_iff.mpr fun e he => h e (List.mem_append_right _ he)
  rw [List.filter_append, List.filter_cons_of_pos ha, hl, hm]
  rfl

theorem filter_two {α : Type} {p : α → Bool} {l m r : List α} {a b : α} (ha : p a = true) (hb : p b = true)
    (h : ∀ e ∈ l ++ m ++ r, ¬ p e = true) : (l ++ a :: (m ++ b :: r)).filter p = [a, b] := by
  have hl : l.filter p = [] := List.filter_eq_nil_iff.mpr fun e he => h e (by simp [he])
  have hr : (m ++ b :: r).filter p = [b] := filter_one hb fun e he => h e (by
    rw [List.append_assoc]; exact List.mem_append_right _ he)
  rw [List.filter_append, List.filter_cons_of_pos ha, hl, hr]
  rfl

/-- Settles O27: by the six parts of its statement. -/
theorem verdictIsCollected : Obligations.VerdictIsCollected := by
  refine ⟨fun s i f n v bath h hp => ?_, fun s n e g k w he hs hw => ?_, fun s n => ⟨tellRefused_none n, fun j hj => ?_⟩,
    fun s => ⟨fun t ht => ?_, fun st e he n w ho hs => ?_⟩, fun s => ?_, fun s n => ⟨tellHeld_none n, fun j hj => ?_⟩⟩
  · refine ⟨fun e g k w he hs hx => ?_, fun other => exec_verdict_of_hears h hp (takeVerdict_ignored ?_)⟩
    · have taken := fun v => takeVerdict_awaited (s := s.heard f) (told := State.tellRefused n)
        (by rw [heard_own, heard_entryOf, he]) hs hx v
      simp only [heard_own, heard_claims] at taken
      refine ⟨?_, ?_, ?_⟩ <;> rintro rfl <;> exact exec_verdict_of_hears h hp (taken _)
    · rw [heard_own, heard_entryOf]
      exact other
  · obtain ⟨-, origin, rfl⟩ := entryOf_some he
    have looked := exec_answerWindow_of_due he hs hw
    refine ⟨fun x => ?_, fun x => ?_⟩
    · rw [looked, resendClaim_unanswered hs x, origin]
      rfl
    · rw [looked, resendClaim_deferred hs x, origin]
  · have told := tellRefused_some n hj
    refine ⟨fun c => told.trans (if_pos c), fun c d => ?_, fun c d => told.trans ((if_neg c).trans (if_neg d))⟩
    have shift := told.trans ((if_neg c).trans (if_pos d))
    obtain ⟨yes, no⟩ := phase_if_negotiating (updateHead_seq (fun k => { k with shiftClaim := none }) s) .waiting
    exact ⟨fun x => shift.trans (yes x), fun x => shift.trans (no x)⟩
  · obtain ⟨e, he, ok, rfl⟩ := promote_some ht
    obtain ⟨own, ⟨n, w, st⟩, clear⟩ := (promotable_iff s e).mp ok
    exact ⟨e, n, w, he, own, st, clear, becomeHeld_own own⟩
  · refine Classical.byContradiction fun none => ?_
    refine promote_none (promote_of_settled st) e he ((promotable_iff s e).mpr ⟨ho, ⟨n, w, hs⟩, fun x hx stale => ?_⟩)
    exact Bool.eq_false_iff.mpr fun ov => none ⟨x, hx, stale, ov⟩
  · intro free turn
    have is_free (e : ClaimEntry) : s.promotable e = true ↔ free e := promotable_iff s e
    have held (e : ClaimEntry) (h : free e) (u : State) : u.becomeHeld e = turn e u := becomeHeld_own h.1
    refine ⟨fun no => ?_, fun l a m ht ha no => ?_, fun l a m b r ht ha hb no => ?_⟩
    · exact promoteAll_eq (List.filter_eq_nil_iff.mpr fun e he => mt (is_free e).mp (no e he))
    · refine (promoteAll_eq (ht ▸ filter_one ((is_free a).mpr ha) fun e he => mt (is_free e).mp (no e he))).trans ?_
      exact held a ha s
    · refine (promoteAll_eq (ht ▸ filter_two ((is_free a).mpr ha) ((is_free b).mpr hb)
        fun e he => mt (is_free e).mp (no e he))).trans ?_
      exact (held b hb _).trans (congrArg (turn b) (held a ha s))
  · have told := tellHeld_some n hj
    refine ⟨fun c => told.trans (if_pos c), fun c d => ?_, fun c d => told.trans ((if_neg c).trans (if_neg d))⟩
    have shift := told.trans ((if_neg c).trans (if_pos d))
    obtain ⟨yes, no⟩ := phase_if_negotiating (s := s)
      (t := (s.updateHead fun k => { k with shiftClaim := some ⟨n, true⟩ }).setClaimWait none)
      (updateHead_seq _ s) .held
    exact ⟨fun x => shift.trans (yes x), fun x => shift.trans (no x)⟩

end Sys2Proof.Machine
end

section
/-! PROOFS. An amount applied, and an entry originated (R32, R33, R36, R37, R39, R66). -/

namespace Sys2Proof.Machine

/-! ## The balance held within its range -/

theorem outOfRange_iff (i : Int) : outOfRange i = true ↔ i < 0 ∨ 4294967295 < i := by
  unfold outOfRange
  rw [Bool.or_eq_true, decide_eq_true_iff, decide_eq_true_iff]
  rfl

theorem outOfRange_false_iff (i : Int) : outOfRange i = false ↔ 0 ≤ i ∧ i ≤ 4294967295 := by
  rw [← Bool.not_eq_true, outOfRange_iff]
  omega

theorem heldBalance_below {i : Int} (h : i < 0) : heldBalance i = 0 := by
  unfold heldBalance; omega

theorem heldBalance_within {i : Int} (h : 0 ≤ i) (h' : i ≤ 4294967295) : (heldBalance i : Int) = i := by
  unfold heldBalance max32; omega

theorem heldBalance_above {i : Int} (h : 4294967295 < i) : heldBalance i = 4294967295 := by
  unfold heldBalance max32; omega

/-! ## What an applied amount leaves in each block -/

/-- An applied amount touches the account, the port's flags and the mark of a due retest only (R32). -/
theorem applyAmount_frame (amount : Int) (s : State) :
    s.applyAmount amount = { s with
      account := (s.applyAmount amount).account, port := (s.applyAmount amount).port,
      jobs := { s.jobs with retestDue := true } } := by
  unfold State.applyAmount State.countApplied
  dsimp only
  split <;> split <;> rfl

/-- The account after an amount: the balance, the clamp count, and the count towards the next checkpoint (R32, R66). -/
theorem applyAmount_account (amount : Int) (s : State) :
    (s.applyAmount amount).account = { s.account with
      balance := heldBalance (s.account.balance + amount)
      clampCount := if outOfRange (s.account.balance + amount) then satInc s.account.clampCount else s.account.clampCount
      sinceCheckpoint := if s.account.sinceCheckpoint + 1 < 64 then s.account.sinceCheckpoint + 1 else 0
      checkpointPending := if s.account.sinceCheckpoint + 1 < 64 then s.account.checkpointPending else true } := by
  have counted (u : State) : u.countApplied.account = { u.account with
      sinceCheckpoint := if u.account.sinceCheckpoint + 1 < 64 then u.account.sinceCheckpoint + 1 else 0
      checkpointPending := if u.account.sinceCheckpoint + 1 < 64 then u.account.checkpointPending else true } := by
    unfold State.countApplied
    split <;> rfl
  refine (counted _).trans ?_
  unfold exactBalance
  split <;> rfl

/-- A clamp raises ACCOUNT_EVENT, and nothing else of the port changes (R32). -/
theorem applyAmount_port (amount : Int) (s : State) :
    (s.applyAmount amount).port = if outOfRange (s.account.balance + amount) then
      { s.port with flags := { s.port.flags with accountEvent := true } } else s.port := by
  have counted (u : State) : u.countApplied.port = u.port := by
    unfold State.countApplied
    split <;> rfl
  refine (counted _).trans ?_
  unfold exactBalance
  split <;> rfl

/-! ## The floor, and originating -/

theorem testFloor_below {s : State} (h : s.account.balance < s.conf.floor) (r : s.runningJob ≠ none) :
    s.testFloor = s.latch .bath (.balance s.account.balance) :=
  if_pos ⟨h, Option.isSome_iff_ne_none.mpr r⟩

theorem testFloor_unchanged {s : State} (h : s.conf.floor ≤ s.account.balance ∨ s.runningJob = none) :
    s.testFloor = s := by
  refine if_neg fun ⟨below, running⟩ => ?_
  rcases h with h | h
  · exact Nat.not_lt.mpr h below
  · exact Option.isSome_iff_ne_none.mp running h

/-- A change of the whole account overwrites one of the applied vector. -/
theorem setAccount_setApplied (s : State) (r : Rank) (n : Nat) (a : Account) :
    (s.setApplied r n).setAccount a = s.setAccount a := rfl

/-- An originated entry: numbered, applied, retained, posted to ALL (R37, R39). -/
theorem originate_eq (s : State) (kind : EntryKind) (amount : Int) (dipId : Option Nat) :
    let e : Entry := ⟨s.own, s.account.ownNext, kind, amount, s.time.clock, dipId⟩
    let t := ((s.setAccount { s.account with
      ownNext := heldInc s.account.ownNext
      ownSpent := s.account.ownSpent || s.account.ownNext == max32 }).applyAmount amount).testFloor
    s.originate kind amount dipId =
      (t.setAccount { t.account with
        applied := t.account.applied.set s.own s.account.ownNext
        retained := retain e t.account.retained }).post .all e.frame := by
  unfold State.originate State.now
  dsimp only
  rw [setAccount_setApplied]
  rfl

/-- Settles O31: by the four parts of its statement. -/
theorem amountIsAppliedAndEntryOriginated : Obligations.AmountIsAppliedAndEntryOriginated := by
  refine ⟨fun s amount => ?_, fun s kind amount dipId => originate_eq s kind amount dipId,
    fun s => ⟨testFloor_below, testFloor_unchanged⟩, fun s draw dipId => ⟨fun h => ?_, fun h => ?_⟩⟩
  · intro exact t
    have account := applyAmount_account amount s
    have port := applyAmount_port amount s
    refine ⟨applyAmount_frame amount s, fun below => ?_, fun least most => ?_, fun above => ?_, fun clamped => ?_,
      fun few => ?_, fun many => ?_, ?_⟩
    · rw [account]; exact heldBalance_below below
    · have fits := (outOfRange_false_iff exact).mpr ⟨least, most⟩
      rw [account, port, fits]
      exact ⟨heldBalance_within least most, rfl, rfl⟩
    · rw [account]; exact heldBalance_above above
    · have out := (outOfRange_iff exact).mpr clamped
      rw [account, port, out]
      exact ⟨rfl, rfl⟩
    · rw [account]; exact ⟨if_pos few, if_pos few⟩
    · rw [account]; exact ⟨if_neg (Nat.not_lt.mpr many), if_neg (Nat.not_lt.mpr many)⟩
    · rw [account]
  · exact if_neg (Nat.not_lt.mpr h)
  · exact if_pos h

end Sys2Proof.Machine
end

section
/-! PROOFS. The host's CHARGE, SKIM, ADJUST and CHECKPOINT (R35, R67, R68). -/

namespace Sys2Proof.Machine

/-! ## The tests of a host entry (R35), in their order -/

theorem massInRange_iff (m : Nat) : massInRange m = true ↔ 1 ≤ m ∧ m ≤ 16000000 := by
  unfold massInRange
  rw [Bool.and_eq_true, decide_eq_true_iff, decide_eq_true_iff]
  rfl

theorem hostEntry_notActive {s : State} (k : EntryKind) (a : Int) (b : Bool) (h : s.roster.state ≠ .active) :
    s.hostEntry k a b = s.notActive := if_pos h

theorem hostEntry_invalid {s : State} (k : EntryKind) (a : Int) (h : s.roster.state = .active) :
    s.hostEntry k a false = s.invalid := by
  unfold State.hostEntry
  rw [if_neg (not_not_intro h)]
  rfl

theorem hostEntry_rebasing {s : State} (k : EntryKind) (a : Int) (h : s.roster.state = .active)
    (hr : s.account.state = .rebasing) : s.hostEntry k a true = s.busy := by
  unfold State.hostEntry
  rw [if_neg (not_not_intro h)]
  exact if_pos hr

/-- A host entry past the tests of its mass and of the account rests on the log: without room it is BUSY. -/
theorem hostEntry_noRoom {s : State} (k : EntryKind) (a : Int) (h : s.roster.state = .active)
    (hr : s.account.state ≠ .rebasing)
    (no : ¬(s.log.state ≠ .full ∧ s.log.state ≠ .fault ∧ s.log.freeBuffer ≠ none)) :
    s.hostEntry k a true = s.busy := by
  unfold State.hostEntry
  rw [if_neg (not_not_intro h)]
  refine (if_neg hr).trans ?_
  split
  · rfl
  · next log =>
    have none : s.log.freeBuffer = none :=
      Classical.byContradiction fun free => no ⟨fun x => log (.inl x), fun x => log (.inr x), free⟩
    rw [none]

theorem hostEntry_room {s : State} (k : EntryKind) (a : Int) {i : BufferId} (h : s.roster.state = .active)
    (hr : s.account.state ≠ .rebasing) (full : s.log.state ≠ .full) (fault : s.log.state ≠ .fault)
    (free : s.log.freeBuffer = some i) :
    let t := (s.originate k a none).placeReady i (.entry s.account.ownNext k a)
    s.hostEntry k a true = t.ok (.originated s.account.ownNext t.account.balance) := by
  unfold State.hostEntry
  rw [if_neg (not_not_intro h)]
  refine (if_neg hr).trans ?_
  rw [if_neg (by simp [full, fault]), free]

/-- CHARGE, SKIM and ADJUST are one request each, with its kind and signed amount; each tests the amount's size. -/
theorem exec_hostEntry_of_listens {s : State} (h : s.Listens) {c : Instr} {kind : EntryKind} {amount : Int}
    (hc : (∃ m : Nat, c = .charge m ∧ kind = .charge ∧ amount = m) ∨
      (∃ m : Nat, c = .skim m ∧ kind = .skim ∧ amount = -(m : Int)) ∨ (c = .adjust amount ∧ kind = .adjust)) :
    exec c s = .next ((s.working c).hostEntry kind amount (massInRange amount.natAbs)).finish := by
  rcases hc with ⟨m, rfl, rfl, rfl⟩ | ⟨m, rfl, rfl, rfl⟩ | ⟨rfl, rfl⟩
  · exact request_of_listens h _ _
  · rw [Int.natAbs_neg]; exact request_of_listens h _ _
  · exact request_of_listens h _ _

/-! ## CHECKPOINT (R67, R68) -/

theorem hostCheckpoint_notActive {s : State} (h : s.roster.state ≠ .active) : s.hostCheckpoint = s.notActive := if_pos h

theorem hostCheckpoint_busy {s : State} (h : s.roster.state = .active) (ha : s.applying = false) :
    s.hostCheckpoint = s.busy := by
  unfold State.hostCheckpoint
  rw [if_neg (not_not_intro h), ha]
  rfl

theorem hostCheckpoint_placed {s t : State} (h : s.roster.state = .active) (ha : s.applying = true)
    (hp : s.askCheckpoint.placeCheckpoint = some t) : s.hostCheckpoint = t.ok (.checkpointMark true) := by
  unfold State.hostCheckpoint
  rw [if_neg (not_not_intro h), ha, hp]
  rfl

theorem hostCheckpoint_pending {s : State} (h : s.roster.state = .active) (ha : s.applying = true)
    (hp : s.askCheckpoint.placeCheckpoint = none) :
    s.hostCheckpoint = s.askCheckpoint.ok (.checkpointMark false) := by
  unfold State.hostCheckpoint
  rw [if_neg (not_not_intro h), ha, hp]
  rfl

/-- A checkpoint asked for and placed at once leaves none pending. -/
theorem placeCheckpoint_asked {s : State} {i : BufferId} (full : s.log.state ≠ .full) (fault : s.log.state ≠ .fault)
    (free : s.log.freeBuffer = some i) :
    s.askCheckpoint.placeCheckpoint = some ((s.setAccount { s.account with
      sinceCheckpoint := 0, checkpointPending := false }).placeReady i (.checkpoint s.account.balance s.account.applied
        s.account.ownNext s.roster.ticketCounter)) := by
  unfold State.placeCheckpoint State.askCheckpoint
  simp only [setAccount_log, free]
  exact if_pos (by simp [full, fault])

theorem placeCheckpoint_none {s : State}
    (h : ¬(s.log.state ≠ .full ∧ s.log.state ≠ .fault) ∨ s.log.freeBuffer = none) : s.placeCheckpoint = none := by
  unfold State.placeCheckpoint
  split
  · next room =>
    simp only [Bool.and_eq_true, bne_iff_ne] at room
    obtain ⟨⟨-, full⟩, fault⟩ := room
    rw [h.resolve_left (not_not_intro ⟨full, fault⟩)]
  · rfl

/-- Settles O32: a host entry and a CHECKPOINT, test by test. -/
theorem hostEntryAndCheckpointAreTested : Obligations.HostEntryAndCheckpointAreTested := by
  refine ⟨fun s c kind amount h hc => ?_, fun s h => ?_⟩
  · intro w range room
    have worked {t : State} (ht : w.hostEntry kind amount (massInRange amount.natAbs) = t) :
        exec c s = .next t.finish := (exec_hostEntry_of_listens h hc).trans (by rw [ht])
    have inside (r : range) : massInRange amount.natAbs = true := (massInRange_iff _).mpr r
    refine ⟨fun a => worked (hostEntry_notActive _ _ _ a), fun a r => worked ?_, fun a r reb => worked ?_,
      fun a r reb no => worked ?_, fun i a r reb yes free => worked ?_⟩
    · rw [Bool.eq_false_iff.mpr (mt (massInRange_iff _).mp r)]
      exact hostEntry_invalid _ _ a
    · rw [inside r]; exact hostEntry_rebasing _ _ a reb
    · rw [inside r]; exact hostEntry_noRoom _ _ a reb no
    · obtain ⟨full, fault, -⟩ := yes
      rw [inside r]; exact hostEntry_room _ _ a reb full fault free
  · intro w asked room
    have worked {t : State} (ht : w.hostCheckpoint = t) : exec .checkpoint s = .next t.finish :=
      (request_of_listens h _ _).trans (by rw [ht])
    refine ⟨fun a => worked (hostCheckpoint_notActive a), fun a ap => worked (hostCheckpoint_busy a ap),
      fun i a ap ok free => worked ?_, fun a ap no => worked ?_⟩
    · obtain ⟨full, fault⟩ := ok
      exact hostCheckpoint_placed a ap (placeCheckpoint_asked full fault free)
    · exact hostCheckpoint_pending a ap (placeCheckpoint_none no)

end Sys2Proof.Machine
end

section
/-! PROOFS. A received ENTRY, by its sequence (R34, R41 to R46). -/

namespace Sys2Proof.Machine

theorem exec_entry_of_hears {s t : State} {i : BufferId} {f : Frame} {e : Entry} (h : s.Hears i f)
    (hp : f.payload = .entry e.seq e.kind e.amount e.time e.dipId) (ho : e.origin = f.origin)
    (ht : (s.heard f).takeEntry e = t) : exec .entryTaken s = .next (t.freeRx i).finish :=
  exec_of_hears h .entry (by rw [hp]; rfl) (by unfold takePayload; rw [hp, ← ho]; exact ht)

@[simp] theorem heard_time (s : State) (f : Frame) : (s.heard f).time = s.time := by rw [heard_frame]

@[simp] theorem heard_applying (s : State) (f : Frame) : (s.heard f).applying = s.applying :=
  applying_congr (by rw [heard_account])

theorem Entry.same_comm (e x : Entry) : e.same x = (x.origin == e.origin && x.seq == e.seq) := by
  unfold Entry.same
  rw [Bool.beq_comm (a := e.origin), Bool.beq_comm (a := e.seq)]

/-! ## The cases of R41 -/

theorem takeEntry_unsound {s : State} {e : Entry} (h : e.sound = false) : s.takeEntry e = s := if_pos (.inr h)

/-- A sound entry of another rank goes by its sequence while the account is applying, and is held otherwise. -/
theorem takeEntry_sound {s : State} {e : Entry} (h : e.sound = true) (ho : e.origin ≠ s.own) :
    s.takeEntry e = if s.applying then
        if e.seq = s.account.applied[e.origin] + 1 then s.takeInLine e
        else if e.seq ≤ s.account.applied[e.origin] then s
        else s.takeAhead e
      else s.hold e := if_neg (by simp [h, ho])

theorem takeEntry_duplicate {s : State} {e : Entry} (h : e.sound = true) (ho : e.origin ≠ s.own)
    (ha : s.applying = true) (hn : e.seq < s.account.applied[e.origin] + 1) : s.takeEntry e = s := by
  rw [takeEntry_sound h ho, if_pos ha, if_neg (Nat.ne_of_lt hn), if_pos (Nat.le_of_lt_succ hn)]

theorem takeEntry_inLine {s : State} {e : Entry} (h : e.sound = true) (ho : e.origin ≠ s.own)
    (ha : s.applying = true) (hn : e.seq = s.account.applied[e.origin] + 1) : s.takeEntry e = s.takeInLine e := by
  rw [takeEntry_sound h ho, if_pos ha, if_pos hn]

theorem takeEntry_ahead {s : State} {e : Entry} (h : e.sound = true) (ho : e.origin ≠ s.own)
    (ha : s.applying = true) (hn : s.account.applied[e.origin] + 1 < e.seq) : s.takeEntry e = s.takeAhead e := by
  rw [takeEntry_sound h ho, if_pos ha, if_neg (Nat.ne_of_gt hn), if_neg (by omega)]

theorem takeEntry_held {s : State} {e : Entry} (h : e.sound = true) (ho : e.origin ≠ s.own)
    (ha : s.applying = false) : s.takeEntry e = s.hold e := by
  rw [takeEntry_sound h ho, if_neg (Bool.eq_false_iff.mp ha)]

/-! ## The holding list, and the gap asked for -/

/-- An entry held: its identity is not held twice, and the list holds at most 8 (R43, R44). -/
theorem hold_eq (e : Entry) (s : State) : s.hold e = s.setAccount { s.account with
    holding := if s.account.holding.any (fun x => x.origin == e.origin && x.seq == e.seq) ||
      decide (8 ≤ s.account.holding.length) then s.account.holding else s.account.holding ++ [e] } := by
  unfold State.hold
  rw [funext (Entry.same_comm e)]
  split <;> rfl

theorem hold_gaps (e : Entry) (s : State) : (s.hold e).account.gaps = s.account.gaps := by rw [hold_eq]; rfl

/-- The first entry ahead of a gap opens its record. -/
theorem takeAhead_closed {s : State} {e : Entry} (h : s.account.gaps[e.origin] = none) :
    s.takeAhead e = ((s.hold e).askGap e.origin e.seq).becomeGapped := by
  unfold State.takeAhead State.openGap
  rw [hold_gaps, h]

/-- A further one raises the target of the record that is open. -/
theorem takeAhead_open {s : State} {e : Entry} {g : OpenGap} (h : s.account.gaps[e.origin] = some g) :
    s.takeAhead e =
      ((s.hold e).setGap e.origin (some { g with target := max g.target e.seq })).becomeGapped := by
  unfold State.takeAhead State.openGap
  rw [hold_gaps, h]

/-- The GAP names the first seq that is missing, and its time is kept (R43). -/
theorem askGap_eq {s : State} {c : Time} (clock : s.time.clock = c) (r : Rank) (n : Nat) :
    s.askGap r n = (s.setGap r (some ⟨n, c⟩)).post (.rank r) (.gap (s.account.applied[r] + 1)) := by
  subst clock
  rfl

theorem post_accountState (d : Dest) (p : Payload) (s : State) :
    (s.post d p).account.state = s.account.state := by rw [post_account]

theorem becomeGapped_congr {s t : State} (h : t.account.state = s.account.state) :
    t.becomeGapped = if s.account.state = .synced then t.setAccountState .gapped else t := by
  unfold State.becomeGapped; rw [h]

/-! ## The chain of R42 -/

theorem chain_none {s : State} {r : Rank} (apply : Entry → State → State) (k : Nat) (h : s.nextHeld r = none) :
    State.chain apply r k s = s := by
  cases k with
  | zero => rfl
  | succ k => unfold State.chain; rw [h]

theorem chain_some {s : State} {r : Rank} {e : Entry} (apply : Entry → State → State) (k : Nat)
    (h : s.nextHeld r = some e) :
    State.chain apply r (k + 1) s = State.chain apply r k (apply e (s.setAccount { s.account with
      holding := s.account.holding.filter fun x => !(x.origin == e.origin && x.seq == e.seq) })) := by
  rw [State.chain, h]
  simp only [Entry.same_comm]

/-- With fuel for the whole holding list the chain ends only when no held entry is next in line. -/
theorem chain_nextHeld (apply : Entry → State → State) (r : Rank)
    (keeps : ∀ e t, (apply e t).account.holding = t.account.holding) (k : Nat) (s : State)
    (fuel : s.account.holding.length ≤ k) : (State.chain apply r k s).nextHeld r = none := by
  induction k generalizing s with
  | zero =>
    have empty : s.account.holding = [] := List.length_eq_zero_iff.mp (Nat.le_zero.mp fuel)
    unfold State.chain State.nextHeld
    rw [empty]
    rfl
  | succ k ih =>
    cases next : s.nextHeld r with
    | none => rw [chain_none apply _ next]; exact next
    | some e =>
      rw [chain_some apply k next]
      refine ih _ ?_
      rw [keeps, setAccount_account]
      have shorter := filter_shorter (p := fun x : Entry => !(x.origin == e.origin && x.seq == e.seq))
        (List.mem_of_find?_eq_some next) (by simp)
      exact Nat.le_of_lt_succ (Nat.lt_of_lt_of_le shorter fuel)

theorem nextHeld_none_iff (s : State) (r : Rank) :
    s.nextHeld r = none ↔ ∀ x ∈ s.account.holding, x.origin = r → x.seq ≠ s.account.applied[r] + 1 := by
  unfold State.nextHeld
  simp

/-! ## The test of R46 -/

/-- What the test of R46 leaves of a rank's gap record: closed once its target is applied. -/
def Account.testedGap (a : Account) (r : Rank) : Option OpenGap :=
  match a.gaps[r] with
  | some g => if g.target ≤ a.applied[r] then none else some g
  | none => none

/-- Every gap record is closed and nothing is held: a GAPPED account is whole again. -/
def State.Whole (s : State) : Prop :=
  s.account.state = .gapped ∧ (∀ q : Rank, s.account.gaps[q] = none) ∧ s.account.holding = []

theorem allClosed_iff (s : State) : s.allClosed = true ↔ ∀ q : Rank, s.account.gaps[q] = none := by
  unfold State.allClosed
  rw [List.all_eq_true]
  simp only [Vector.mem_toList_iff, Vector.mem_iff_getElem, Option.isNone_iff_eq_none]
  exact ⟨fun h q => h _ ⟨q, q.isLt, rfl⟩, fun h x ⟨j, hj, e⟩ => e ▸ h ⟨j, hj⟩⟩

theorem whole_iff (s : State) :
    (s.account.state == .gapped && s.allClosed && s.account.holding.isEmpty) = true ↔ s.Whole := by
  simp [State.Whole, allClosed_iff, and_assoc]

theorem setGap_self (s : State) (r : Rank) : s.setGap r s.account.gaps[r] = s := by
  unfold State.setGap
  rw [show s.account.gaps.set r s.account.gaps[r] = s.account.gaps from Vector.set_getElem_self _]

/-- A GAPPED account that is whole is SYNCED again (R46). -/
def State.settleGapped (s : State) : State :=
  if s.account.state == .gapped && s.allClosed && s.account.holding.isEmpty then s.setAccountState .synced else s

theorem settleGapped_whole {s : State} (h : s.Whole) : s.settleGapped = s.setAccountState .synced :=
  if_pos ((whole_iff s).mpr h)

theorem settleGapped_not {s : State} (h : ¬s.Whole) : s.settleGapped = s := if_neg (mt (whole_iff s).mp h)

/-- The test of R46: the rank's record, then the whole account. -/
theorem testGap_eq (s : State) (r : Rank) : s.testGap r = (s.setGap r (s.account.testedGap r)).settleGapped := by
  have same := setGap_self s r
  unfold State.testGap Account.testedGap
  cases hg : s.account.gaps[r] with
  | none =>
    rw [hg] at same
    exact congrArg State.settleGapped same.symm
  | some g =>
    rw [hg] at same
    dsimp only
    split
    · rfl
    · exact congrArg State.settleGapped same.symm

/-- Settles O33: by the cases of R41, the chain of R42, and the test of R46. -/
theorem receivedEntryGoesByItsSeq : Obligations.ReceivedEntryGoesByItsSeq := by
  refine ⟨?_, fun apply r s k => ?_, fun s r => ?_⟩
  · rintro s i ⟨origin, dest, payload⟩ e h hp (rfl : e.origin = origin) takes u next held gapped apply
    have takes_of {t : State} (ht : u.takeEntry e = t) : takes t := exec_entry_of_hears h hp rfl ht
    have foreign : e.origin ≠ u.own := by rw [heard_own]; exact h.goes.foreign
    have applying : u.applying = s.applying := heard_applying s _
    have account : u.account = s.account := heard_account s _
    have clock : u.time.clock = s.time.clock := congrArg Timebase.clock (heard_time s _)
    have line : u.account.applied[e.origin] + 1 = next := by rw [account]
    have holds : u.hold e = u.setAccount { s.account with holding := held } := by rw [hold_eq, account]
    refine ⟨fun sd => takes_of (takeEntry_unsound sd), fun sd a n => takes_of ?_, fun sd a n => takes_of ?_,
      fun sd a n g => takes_of ?_, fun g sd a n hg => takes_of ?_, fun sd a => takes_of ?_⟩
    · exact takeEntry_duplicate sd foreign (applying.trans a) (line ▸ n)
    · exact takeEntry_inLine sd foreign (applying.trans a) (n.trans line.symm)
    · rw [takeEntry_ahead sd foreign (applying.trans a) (line ▸ n), takeAhead_closed (by rw [account]; exact g), holds,
        askGap_eq (by exact clock)]
      exact becomeGapped_congr (post_accountState _ _ _)
    · rw [takeEntry_ahead sd foreign (applying.trans a) (line ▸ n), takeAhead_open (by rw [account]; exact hg), holds]
      exact becomeGapped_congr rfl
    · exact (takeEntry_held sd foreign (applying.trans a)).trans holds
  · refine ⟨chain_none apply k, fun e => chain_some apply k, fun keeps => ?_⟩
    exact (nextHeld_none_iff _ r).mp (chain_nextHeld apply r keeps _ s (Nat.le_refl _))
  · have tested := testGap_eq s r
    exact ⟨fun whole => tested.trans (settleGapped_whole whole), fun no => tested.trans (settleGapped_not no)⟩

end Sys2Proof.Machine
end

section
/-! PROOFS. A GAP and a GONE taken, and the rebase (R49, R50, R59 to R61). -/

namespace Sys2Proof.Machine

theorem exec_gap_of_hears {s t : State} {i : BufferId} {f : Frame} {n : Nat} (h : s.Hears i f)
    (hp : f.payload = .gap n) (ht : (s.heard f).takeGap f.origin n = t) :
    exec .gapTaken s = .next (t.freeRx i).finish :=
  exec_of_hears h .gap (by rw [hp]; rfl) (by unfold takePayload; rw [hp]; exact ht)

theorem exec_gone_of_hears {s t : State} {i : BufferId} {f : Frame} {n : Nat} (h : s.Hears i f)
    (hp : f.payload = .gone n) (ht : (s.heard f).takeGone f.origin n = t) :
    exec .goneTaken s = .next (t.freeRx i).finish :=
  exec_of_hears h .gone (by rw [hp]; rfl) (by unfold takePayload; rw [hp]; exact ht)

/-! ## A GAP answered from the retained list (R49) -/

theorem takeGap_ignored {s : State} {n : Nat} (r : Rank) (h : n = 0 ∨ s.latestOwn < n) : s.takeGap r n = s := if_pos h

theorem takeGap_none {s : State} {n : Nat} (r : Rank) (h : n ≠ 0) (l : n ≤ s.latestOwn)
    (hr : s.account.retained = []) : s.takeGap r n = s.post (.rank r) (.gone s.account.ownNext) := by
  unfold State.takeGap
  rw [if_neg (by omega), hr]

theorem takeGap_below {s : State} {n : Nat} {oldest : Entry} {rest : List Entry} (r : Rank) (h : n ≠ 0)
    (l : n ≤ s.latestOwn) (hr : s.account.retained = oldest :: rest) (below : n < oldest.seq) :
    s.takeGap r n = s.post (.rank r) (.gone oldest.seq) := by
  unfold State.takeGap
  rw [if_neg (by omega), hr]
  exact if_pos below

theorem takeGap_retained {s : State} {n : Nat} {oldest : Entry} {rest : List Entry} (r : Rank) (h : n ≠ 0)
    (l : n ≤ s.latestOwn) (hr : s.account.retained = oldest :: rest) (there : oldest.seq ≤ n) :
    s.takeGap r n = (s.account.retained.filter fun e => decide (n ≤ e.seq)).foldl
      (fun u e => u.post (.rank r) e.frame) s := by
  unfold State.takeGap
  rw [if_neg (by omega), hr]
  exact if_neg (Nat.not_lt.mpr there)

theorem latestOwn_congr {s t : State} (h : t.account = s.account) : t.latestOwn = s.latestOwn := by
  unfold State.latestOwn; rw [h]

/-! ## A GONE (R50) -/

theorem takeGone_iff (s : State) (r : Rank) (n : Nat) :
    (!s.applying || s.account.gaps[r].isNone || decide (n ≤ s.account.applied[r] + 1)) = true ↔
      s.applying = false ∨ s.account.gaps[r] = none ∨ n ≤ s.account.applied[r] + 1 := by
  simp [or_assoc]

/-! ## The rebase (R59 to R61) -/

/-- A posting and a change of the account do not touch each other. -/
theorem post_setAccount (s : State) (d : Dest) (p : Payload) (a : Account) :
    (s.setAccount a).post d p = (s.post d p).setAccount a := by
  have joined : (s.setAccount a).joined = s.joined := rfl
  unfold State.post
  rw [joined, setAccount_link]
  split
  · split
    · dsimp only
      split <;> rfl
    · rfl
  · rfl

@[simp] theorem post_time (d : Dest) (p : Payload) (s : State) : (s.post d p).time = s.time := by rw [post_frame]

/-- The fetch timer runs whether or not there is a target to ask (R59, R61). -/
theorem fetchFrom_none {s : State} {target : Option Rank} {c : Time} (h : target = none) (clock : s.time.clock = c) :
    s.fetchFrom target = s.setAccount { s.account with fetchTarget := target, fetchTimer := some ⟨c, 500⟩ } := by
  subst h clock
  rfl

theorem fetchFrom_some {s : State} {target : Option Rank} {c : Time} {r : Rank} (h : target = some r)
    (clock : s.time.clock = c) :
    s.fetchFrom target = (s.setAccount { s.account with
      fetchTarget := target, fetchTimer := some ⟨c, 500⟩ }).post (.rank r) (.fetch s.account.rebaseNumber) := by
  subst h clock
  unfold State.fetchFrom State.timer State.now
  dsimp only
  rw [post_setAccount, post_account, post_time]
  rfl

/-- A rebase begun: the account REBASING under its next number, every gap record closed, and a FETCH (R59, R60). -/
theorem beginRebase_eq (s : State) (split : Option Rank) :
    s.beginRebase split = (((if s.applying then s.raise .accountEvent else s).setAccount { s.account with
      rebaseNumber := s.account.rebaseNumber + 1
      gaps := Vector.replicate 8 none
      state := .rebasing }).tellAccountChange).fetchFrom (split.orElse fun _ => s.syncedPeer) := by
  unfold State.beginRebase
  cases s.applying <;> rfl

/-- Settles O34: a GAP, a GONE, a rebase begun, and the fetch timer's expiry. -/
theorem gapsAreServedAndRebasesAsk : Obligations.GapsAreServedAndRebasesAsk := by
  refine ⟨fun s i f n h hp => ?_, fun s => ⟨fun spent => ?_, fun unspent => ?_⟩, fun s i f n h hp => ⟨fun no => ?_,
    fun a g n => ?_⟩, fun s split => ?_, fun s t ht due => ?_⟩
  · intro takes u
    have takes_of {t : State} (ht : u.takeGap f.origin n = t) : takes t := exec_gap_of_hears h hp ht
    have account : u.account = s.account := heard_account s f
    rw [← latestOwn_congr account, ← account]
    exact ⟨fun no => takes_of (takeGap_ignored _ no), fun z l hr => takes_of (takeGap_none _ z l hr),
      fun _ _ z l hr below => takes_of (takeGap_below _ z l hr below),
      fun _ _ z l hr there => takes_of (takeGap_retained _ z l hr there)⟩
  · unfold State.latestOwn; rw [spent]; rfl
  · unfold State.latestOwn; rw [unspent]; rfl
  · refine exec_gone_of_hears h hp (if_pos ((takeGone_iff _ _ _).mpr ?_))
    rw [heard_applying, heard_account]
    exact no
  · refine exec_gone_of_hears h hp (if_neg (mt (takeGone_iff _ _ _).mp ?_))
    rw [heard_applying, heard_account]
    rintro (na | ng | le)
    · exact Bool.eq_false_iff.mp na a
    · exact g ng
    · omega
  · intro v target u
    have clock : v.time.clock = s.time.clock := by
      dsimp only [v]
      split <;> rfl
    exact ⟨fun no => (beginRebase_eq s split).trans (fetchFrom_none no clock),
      fun r yes => (beginRebase_eq s split).trans (fetchFrom_some yes clock)⟩
  · have asked : exec .fetchTimerExpiry s = .next (s.fetchFrom s.syncedPeer) :=
      congrArg Host.Outcome.next (onExpiry_of_due ht due _)
    exact ⟨fun no => asked.trans (congrArg _ (fetchFrom_none no rfl)),
      fun r yes => asked.trans (congrArg _ (fetchFrom_some yes rfl))⟩

end Sys2Proof.Machine
end

section
/-! PROOFS. A step keeps a state sound (R2, R4, R26, R39, R43, R54, R70, R71, R98, R121, R151). -/

namespace Sys2Proof.Machine

/-- Soundness does not read the queue of commands. -/
theorem setPending_sound {s : State} (l : List Instr) (h : s.Sound) : ({ s with pending := l } : State).Sound :=
  State.Sound.of_key (s := s) rfl h

theorem tick_keeps (s : State) : Keeps s s.tick := Keeps.ite (Keeps.of_key rfl rfl) (Keeps.refl s)

/-- Settles O4: a step runs the front command, of which `exec_runs` says that it keeps a sound state sound, or counts a
millisecond. -/
theorem stepKeepsSound : Obligations.StepKeepsSound := by
  intro s t sound stepped
  unfold step at stepped
  split at stepped
  · next c rest _ =>
    obtain ⟨u, answers, runs⟩ := exec_runs c { s with pending := rest }
    obtain rfl : u = t := Host.Outcome.next.inj (answers.symm.trans stepped)
    exact runs.sound (setPending_sound rest sound)
  · obtain rfl : s.tick = t := Host.Outcome.next.inj stepped
    exact (tick_keeps s).sound sound

end Sys2Proof.Machine
end

section
/-! PROOFS. A FETCH and a SNAPSHOT (R36, R62 to R64, R44). -/

namespace Sys2Proof.Machine

theorem exec_fetch_of_hears {s t : State} {i : BufferId} {f : Frame} {n : BitVec 16} (h : s.Hears i f)
    (hp : f.payload = .fetch n) (ht : (s.heard f).takeFetch f.origin n = t) :
    exec .fetchTaken s = .next (t.freeRx i).finish :=
  exec_of_hears h .fetch (by rw [hp]; rfl) (by unfold takePayload; rw [hp]; exact ht)

theorem exec_snapshot_of_hears {s t : State} {i : BufferId} {f : Frame} {n : BitVec 16} {balance : Nat}
    {applied : Vector Nat 8} (h : s.Hears i f) (hp : f.payload = .snapshot n balance applied)
    (ht : (s.heard f).takeSnapshot n balance applied = t) : exec .snapshotTaken s = .next (t.freeRx i).finish :=
  exec_of_hears h .snapshot (by rw [hp]; rfl) (by unfold takePayload; rw [hp]; exact ht)

/-! ## A FETCH (R62) -/

theorem takeFetch_synced {s : State} (r : Rank) (n : BitVec 16) (h : s.account.state = .synced) :
    s.takeFetch r n = s.post (.rank r) (.snapshot n s.account.balance s.account.applied) := if_pos h

theorem takeFetch_ignored {s : State} (r : Rank) (n : BitVec 16) (h : s.account.state ≠ .synced) :
    s.takeFetch r n = s := if_neg h

/-- A station that has not joined dispatches no frame (R159). -/
theorem dispatch_notJoined {s : State} (h : s.joined = false) (k : FrameKind) (take : Frame → State → State) :
    s.dispatch k take = s := by
  rcases dispatch_cases s k take with same | ⟨_, _, _, joined, _⟩
  · exact same
  · rw [h] at joined; cases joined

/-- Settles O35: the account SYNCED or not, and the station ISOLATED. -/
theorem fetchIsServedWhenSynced : Obligations.FetchIsServedWhenSynced := by
  refine ⟨fun s i f n h hp => ⟨fun synced => ?_, fun other => ?_⟩, fun s isolated => ?_⟩
  · refine exec_fetch_of_hears h hp ?_
    rw [takeFetch_synced _ _ (by rw [heard_account]; exact synced), heard_account]
  · exact exec_fetch_of_hears h hp (takeFetch_ignored _ _ (by rw [heard_account]; exact other))
  · have out : s.joined = false := by unfold State.joined; rw [isolated]; rfl
    exact congrArg Host.Outcome.next (dispatch_notJoined out .fetch takePayload)

/-! ## The own entries reconciled (R64) -/

@[simp] theorem applyAmount_own (amount : Int) (s : State) : (s.applyAmount amount).own = s.own := by
  rw [applyAmount_frame]; rfl

@[simp] theorem setApplied_own (r : Rank) (n : Nat) (s : State) : (s.setApplied r n).own = s.own := rfl

@[simp] theorem applyAmount_retained (amount : Int) (s : State) :
    (s.applyAmount amount).account.retained = s.account.retained := by
  rw [applyAmount_account]

/-- Every entry applied again is this station's, whose rank no application changes. -/
theorem reapplyOwn_eq {o : Rank} (l : List Entry) (s : State) (ho : s.own = o) :
    s.reapplyOwn l = l.foldl (fun u e => (u.applyAmount e.amount).setApplied o e.seq) s := by
  subst ho
  induction l generalizing s with
  | nil => rfl
  | cons e l ih =>
    have rest := ih ((s.applyAmount e.amount).setApplied s.own e.seq)
    rw [setApplied_own, applyAmount_own] at rest
    exact rest

theorem reapplyOwn_retained (l : List Entry) (s : State) :
    (s.reapplyOwn l).account.retained = s.account.retained := by
  induction l generalizing s with
  | nil => rfl
  | cons e l ih => exact (ih _).trans (applyAmount_retained e.amount s)

/-- An entry is lost when the oldest one left is not the next after those the server has seen; with none left nothing is
noted (log 36). -/
theorem noteLostOwn_eq {s : State} {l : List Entry} (h : s.account.retained = l) (seen : Nat) :
    s.noteLostOwn seen =
      if l.head?.any (fun e => decide (seen + 1 < e.seq)) then s.raise .accountEvent else s := by
  unfold State.noteLostOwn
  rw [h]
  cases l with
  | nil => rfl
  | cons e l => simp

/-- The own entries that the server has not seen, applied again; an entry lost before them noted; the numbering brought
up to what it has seen (R64, log 53). -/
theorem reconcile_eq {s : State} {o : Rank} {l : List Entry} (ho : s.own = o) (hl : s.account.retained = l)
    (seen : Nat) :
    let own := l.filter fun e => decide (seen < e.seq)
    let again := own.foldl (fun u e => (u.applyAmount e.amount).setApplied o e.seq)
      (s.setAccount { s.account with retained := own })
    let noted := if own.head?.any (fun e => decide (seen + 1 < e.seq)) then again.raise .accountEvent else again
    s.reconcile seen = noted.setAccount { noted.account with
      ownNext := max noted.account.ownNext (min (seen + 1) 4294967295)
      ownSpent := noted.account.ownSpent || seen == 4294967295 } := by
  subst hl
  intro own again noted
  have reapplied : (s.setAccount { s.account with retained := own }).reapplyOwn own = again := reapplyOwn_eq own _ ho
  have retained : again.account.retained = own := by rw [← reapplied, reapplyOwn_retained]; rfl
  have lost : again.noteLostOwn seen = noted := noteLostOwn_eq retained seen
  rw [← lost, ← reapplied]
  rfl

/-- With nothing retained only the numbering is brought up to what the server has seen. -/
theorem reconcile_none {s : State} (h : s.account.retained = []) (seen : Nat) :
    s.reconcile seen = s.setAccount { s.account with
      ownNext := max s.account.ownNext (min (seen + 1) 4294967295)
      ownSpent := s.account.ownSpent || seen == 4294967295 } := by
  have kept : s.setAccount { s.account with retained := [] } = s := by rw [← h]; rfl
  refine (reconcile_eq rfl h seen).trans ?_
  rw [List.filter_nil, List.foldl_nil, kept]
  rfl

/-! ## The steps after it (R63) -/

theorem workThrough_none {s : State} (h : s.account.holding = []) : s.workThrough = s := by
  have idle (l : List Rank) :
      l.foldl (fun u r => State.chain State.applyInLine r u.account.holding.length u) s = s := by
    induction l with
    | nil => rfl
    | cons r l ih =>
      rw [List.foldl_cons, h]
      exact ih
  unfold State.workThrough
  rw [idle, ← h]
  rfl

theorem originateDeferred_none {s : State} (h : s.account.deferredDraw = none) : s.originateDeferred = s := by
  unfold State.originateDeferred; rw [h]

theorem takeSnapshot_ignored {s : State} {n : BitVec 16} (balance : Nat) (applied : Vector Nat 8)
    (h : s.account.state ≠ .rebasing ∨ n ≠ s.account.rebaseNumber) : s.takeSnapshot n balance applied = s :=
  if_neg fun ⟨rebasing, present⟩ => h.elim (· rebasing) (· present)

/-- The steps of R63 that follow the reconciling of the own entries. -/
def State.resumeSynced (s : State) : State :=
  (s.workThrough.setAccountState .synced).originateDeferred.testFloor.askCheckpoint

/-- The SNAPSHOT of the present rebase gives balance and vector, and the steps of R63 follow. -/
theorem takeSnapshot_present {s : State} {o : Rank} {n : BitVec 16} (ho : s.own = o) (balance : Nat)
    (applied : Vector Nat 8) (h : s.account.state = .rebasing) (hn : n = s.account.rebaseNumber) :
    s.takeSnapshot n balance applied =
      ((s.setAccount { s.account with
        balance := balance, applied := applied, gaps := Vector.replicate 8 none, fetchTarget := none
        fetchTimer := none }).reconcile applied[o]).resumeSynced := by
  subst ho
  exact if_pos ⟨h, hn⟩

/-- The held entries next in line, applied rank by rank by R32 alone (R44, logs 22, 25). -/
theorem workThrough_eq {s worked : State}
    (h : ([0, 1, 2, 3, 4, 5, 6, 7] : List Rank).foldl (fun u r => State.chain
      (fun e v => (v.applyAmount e.amount).setApplied e.origin e.seq) r u.account.holding.length u) s = worked) :
    s.workThrough = worked.setAccount { worked.account with holding := [] } := by
  have chained : allRanks.foldl (fun u r => State.chain State.applyInLine r u.account.holding.length u) s = worked := h
  unfold State.workThrough
  rw [chained]

theorem originateDeferred_eq (s : State) :
    s.originateDeferred = match s.account.deferredDraw with
      | some d => (s.setAccount { s.account with deferredDraw := none }).originateDraw d
      | none => s := by
  unfold State.originateDeferred
  cases s.account.deferredDraw <;> rfl

/-- The checkpoint is asked for on the state that the floor was tested in. -/
theorem resumeSynced_eq {s worked drawn tested : State} (hw : s.workThrough = worked)
    (hd : (worked.setAccountState .synced).originateDeferred = drawn) (ht : drawn.testFloor = tested) :
    s.resumeSynced = tested.setAccount { tested.account with sinceCheckpoint := 0, checkpointPending := true } := by
  subst hw hd ht
  rfl

/-- With nothing held or deferred, and the balance not below the floor, the account is SYNCED as it stands. -/
theorem resumeSynced_plain {s : State} (holding : s.account.holding = []) (deferred : s.account.deferredDraw = none)
    (floor : s.conf.floor ≤ s.account.balance) :
    s.resumeSynced = (s.setAccount { s.account with
      state := .synced, sinceCheckpoint := 0, checkpointPending := true }).tellAccountChange := by
  unfold State.resumeSynced
  rw [workThrough_none holding, originateDeferred_none (s := s.setAccountState .synced) deferred,
    testFloor_unchanged (s := s.setAccountState .synced) (.inl floor)]
  rfl

/-- Settles O36: a SNAPSHOT of no present rebase, the plain case, and the general one. -/
theorem snapshotIsTaken : Obligations.SnapshotIsTaken := by
  intro s i f n balance applied h hp taken
  have account : (s.heard f).account = s.account := heard_account s f
  have present (a : s.account.state = .rebasing) (b : n = s.account.rebaseNumber) :
      (s.heard f).takeSnapshot n balance applied = (taken.reconcile applied[s.own]).resumeSynced := by
    rw [takeSnapshot_present (heard_own s f) _ _ (account ▸ a) (account ▸ b), account]
  refine ⟨fun no => exec_snapshot_of_hears h hp (takeSnapshot_ignored _ _ (account ▸ no)),
    fun a b retained holding deferred floor => exec_snapshot_of_hears h hp ((present a b).trans ?_),
    fun a b => ?_⟩
  · have conf : taken.conf = s.conf := heard_conf s f
    rw [reconcile_none (s := taken) retained]
    exact resumeSynced_plain holding deferred (conf ▸ floor)
  · intro own again noted numbered worked synced drawn tested
    have reconciled : taken.reconcile applied[s.own] = numbered := reconcile_eq (s := taken) (heard_own s f) rfl _
    have emptied : numbered.workThrough = worked.setAccount { worked.account with holding := [] } := workThrough_eq rfl
    have originated : synced.originateDeferred = drawn := by
      clear_value synced
      exact originateDeferred_eq synced
    have resumed := resumeSynced_eq (tested := tested) emptied originated rfl
    rw [← reconciled] at resumed
    exact exec_snapshot_of_hears h hp ((present a b).trans resumed)

end Sys2Proof.Machine
end

section
/-! PROOFS. Jobs submitted and cancelled, early ends, and the claim wait that runs out (R72, R79, R87, R88). -/

namespace Sys2Proof.Machine

/-! ## The head of the list, and the jobs that leave it -/

theorem runningJob_of_head {s : State} {j : Job} {rest : List Job} (h : s.jobs.list = j :: rest)
    (running : j.state = .running) : s.runningJob = some j := by
  unfold State.runningJob; rw [h]; exact if_pos running

theorem runningJob_none_of_head {s : State} {j : Job} {rest : List Job} (h : s.jobs.list = j :: rest)
    (other : j.state ≠ .running) : s.runningJob = none := by
  unfold State.runningJob; rw [h]; exact if_neg other

theorem activeJob_of_head {s : State} {j : Job} {rest : List Job} (h : s.jobs.list = j :: rest)
    (active : j.state ≠ .queued) : s.activeJob = some j := by
  unfold State.activeJob; rw [h]; exact if_neg active

theorem updateHead_cons {s : State} {j : Job} {rest : List Job} (h : s.jobs.list = j :: rest) (f : Job → Job) :
    s.updateHead f = { s with jobs := { s.jobs with list := f j :: rest } } := by
  unfold State.updateHead; rw [h]

/-- A job that leaves the list, by its state: only the active one has a claim wait timer and a buffer call to take
with it. -/
theorem removeJob_queued {s : State} {j : Job} (h : j.state = .queued) :
    s.removeJob j = { s with jobs := { s.jobs with list := s.jobs.list.filter fun k => k.tag != j.tag } } :=
  if_pos h

theorem removeJob_active {s : State} {j : Job} (h : j.state ≠ .queued) :
    s.removeJob j = { s with
      jobs := { s.jobs with list := s.jobs.list.filter fun k => k.tag != j.tag, claimWait := none }
      log := { s.log with call := none } } :=
  if_neg h

/-- A last result written: RESULT_LOST when the one before it was not read, and JOB_END. -/
theorem writeResult_eq (r : LastResult) (s : State) :
    s.writeResult r = { s with
      jobs := { s.jobs with lastResult := some r }
      port := { s.port with flags := { s.port.flags with
        jobEnd := true, resultLost := s.port.flags.resultLost || s.jobs.lastResult.any fun o => !o.read } } } := by
  unfold State.writeResult
  dsimp only
  cases lost : s.jobs.lastResult.any fun o => !o.read with
  | true => rw [Bool.or_true]; rfl
  | false => rw [Bool.or_false]; rfl

theorem endEarly_queued {s : State} {j : Job} (r : JobResult) (why : Option FailReason) (h : j.state = .queued) :
    s.endEarly j r why = { s with
      jobs := { s.jobs with
        list := s.jobs.list.filter fun k => k.tag != j.tag, lastResult := some ⟨j.tag, none, r, why, 0, none, false⟩ }
      port := (s.writeResult (earlyResult j.tag r why)).port } := by
  unfold State.endEarly
  rw [removeJob_queued h, writeResult_eq, writeResult_eq]
  rfl

theorem endEarly_active {s : State} {j : Job} (r : JobResult) (why : Option FailReason) (h : j.state ≠ .queued) :
    s.endEarly j r why = { s with
      jobs := { s.jobs with
        list := s.jobs.list.filter fun k => k.tag != j.tag, claimWait := none
        lastResult := some ⟨j.tag, none, r, why, 0, none, false⟩ }
      log := { s.log with call := none }
      port := (s.writeResult (earlyResult j.tag r why)).port } := by
  unfold State.endEarly
  rw [removeJob_active h, writeResult_eq, writeResult_eq]
  rfl

/-! ## SUBMIT_JOB -/

theorem submitRanges_iff (s : State) (slot : Nat) (sp : Span) (draw limit : Nat) :
    s.submitRanges slot sp draw limit = true ↔
      slot < 8 ∧ sp.first ≤ sp.last ∧ sp.last < s.conf.cells ∧ draw ≤ 16000000 ∧ 1 ≤ limit ∧ limit ≤ 3600 := by
  simp only [State.submitRanges, Span.valid, Bool.and_eq_true, decide_eq_true_iff, and_assoc]
  exact Iff.rfl

theorem withinReach_iff (reach : Option Span) (sp : Span) :
    withinReach reach sp = true ↔ ∃ r, reach = some r ∧ r.first ≤ sp.first ∧ sp.last ≤ r.last := by
  cases reach with
  | none => simp [withinReach]
  | some r => simp [withinReach, Span.within]

/-- The six tests, each in the words of R72, and the job appended. -/
theorem submit_eq (s : State) (tag : BitVec 16) (slot : Nat) (sp : Span) (draw limit : Nat) :
    s.submit tag slot sp draw limit =
      if ¬ s.roster.state = .active then s.notActive
      else if ¬ (slot < 8 ∧ sp.first ≤ sp.last ∧ sp.last < s.conf.cells ∧ draw ≤ 16000000 ∧ 1 ≤ limit ∧
        limit ≤ 3600) then s.invalid
      else if ¬ (∃ r, s.reachOf s.own = some r ∧ r.first ≤ sp.first ∧ sp.last ≤ r.last) then s.refuse .outOfReach
      else if ¬ s.program slot ≠ [] then s.refuse .noProgram
      else if ¬ ∀ j ∈ s.jobs.list, j.tag ≠ tag then s.refuse .duplicateTag
      else if 4 ≤ s.jobs.list.length then s.busy
      else ({ s with jobs := { s.jobs with list := s.jobs.list ++ [newJob tag slot sp draw limit] } } : State).ok
        (.place (s.jobs.list.length + 1)) := by
  have empty : (s.program slot).isEmpty = true ↔ ¬ s.program slot ≠ [] := by simp
  have taken : s.jobs.list.any (·.tag == tag) = true ↔ ¬ ∀ j ∈ s.jobs.list, j.tag ≠ tag := by simp
  unfold State.submit
  simp only [← submitRanges_iff, ← withinReach_iff, ← empty, ← taken, Bool.not_eq_true', Bool.not_eq_true,
    List.length_append, List.length_singleton]

/-! ## CANCEL_JOB -/

theorem exec_cancelJob_unknown {s : State} {tag : BitVec 16} (h : s.Listens)
    (hf : s.jobs.list.find? (·.tag == tag) = none) :
    exec (.cancelJob tag) s = .next ((s.working (.cancelJob tag)).refuse .unknownTag).finish := by
  have none : (s.working (.cancelJob tag)).jobs.list.find? (·.tag == tag) = none := hf
  show execCancelJob tag s = _
  unfold execCancelJob
  rw [request_of_listens h, none]

theorem exec_cancelJob_found {s : State} {tag : BitVec 16} {j : Job} (h : s.Listens)
    (hf : s.jobs.list.find? (·.tag == tag) = some j) :
    exec (.cancelJob tag) s = .next ((s.working (.cancelJob tag)).cancel j).finish := by
  have found : (s.working (.cancelJob tag)).jobs.list.find? (·.tag == tag) = some j := hf
  show execCancelJob tag s = _
  unfold execCancelJob
  rw [request_of_listens h, found]

theorem cancel_unclaimed {s : State} {j : Job} (h : j.state = .queued ∨ j.state = .waitCells ∨ j.state = .waitBath) :
    s.cancel j = (s.endEarly j .cancelled none).ok .empty := by
  unfold State.cancel
  rcases h with h | h | h <;> rw [h]

theorem cancel_claiming {s : State} {j : Job} {n : BitVec 16} {held : Bool} (h : j.state = .claiming)
    (hc : j.claim = some ⟨n, held⟩) : s.cancel j = ((s.endClaim n).endEarly j .cancelled none).ok .empty := by
  unfold State.cancel
  rw [h, hc]

theorem cancel_running {s : State} {j : Job} (h : j.state = .running) :
    s.cancel j = if j.cancelPending then s.ok .empty
      else (s.updateHead fun k => { k with cancelPending := true }).testCancel.ok .empty := by
  unfold State.cancel
  rw [h]

theorem cancel_closing {s : State} {j : Job} (h : j.state = .closing) : s.cancel j = s.busy := by
  unfold State.cancel
  rw [h]

/-- Settles O42: the tests of SUBMIT_JOB one by one, then CANCEL_JOB by the job's state. -/
theorem jobsAreSubmittedAndCancelled : Obligations.JobsAreSubmittedAndCancelled := by
  refine ⟨fun s tag slot first last draw limit h => ?_, fun s tag h => ⟨exec_cancelJob_unknown h, fun j hj => ?_⟩⟩
  · intro c w active ranges reach program fresh
    have worked {t : State} (ht : w.submit tag slot ⟨first, last⟩ draw limit = t) : exec c s = .next t.finish :=
      (request_of_listens h _ _).trans (by rw [ht])
    have tests := submit_eq w tag slot ⟨first, last⟩ draw limit
    have onActive (a : active) := tests.trans (if_neg (not_not_intro a))
    have inRanges (a : active) (r : ranges) := (onActive a).trans (if_neg (not_not_intro r))
    have inReach (a : active) (r : ranges) (x : reach) := (inRanges a r).trans (if_neg (not_not_intro x))
    have loaded (a : active) (r : ranges) (x : reach) (p : program) := (inReach a r x).trans (if_neg (not_not_intro p))
    have isNew (a : active) (r : ranges) (x : reach) (p : program) (f : fresh) :=
      (loaded a r x p).trans (if_neg (not_not_intro f))
    exact ⟨fun a => worked (tests.trans (if_pos a)),
      fun a r => worked ((onActive a).trans (if_pos r)),
      fun a r x => worked ((inRanges a r).trans (if_pos x)),
      fun a r x p => worked ((inReach a r x).trans (if_pos p)),
      fun a r x p f => worked ((loaded a r x p).trans (if_pos f)),
      fun a r x p f full => worked ((isNew a r x p f).trans (if_pos full)),
      fun a r x p f room => worked ((isNew a r x p f).trans (if_neg (Nat.not_le.mpr room)))⟩
  · have cancelled {t : State} (ht : (s.working (.cancelJob tag)).cancel j = t) :
        exec (.cancelJob tag) s = .next t.finish := (exec_cancelJob_found h hj).trans (by rw [ht])
    refine ⟨fun x => cancelled (cancel_unclaimed x), fun n held x hc => cancelled (cancel_claiming x hc),
      fun x p => cancelled ((cancel_running x).trans (if_pos p)), fun x p => cancelled ?_,
      fun x => cancelled (cancel_closing x)⟩
    exact (cancel_running x).trans (if_neg (Bool.eq_false_iff.mp p))

/-! ## The claim wait -/

theorem exec_claimWait_of_due {s : State} {w : Timer} {j : Job} (hw : s.jobs.claimWait = some w)
    (due : w.due s.time.clock = true) (hj : s.activeJob = some j) :
    exec .claimWaitExpiry s = .next ((s.setClaimWait none).claimWaitEnd j).finish := by
  show execClaimWaitExpiry s = _
  unfold execClaimWaitExpiry
  rw [hw, hj]
  dsimp only
  rw [reachExpiry_of_due due]

theorem claimWaitEnd_waiting {s : State} {j : Job} (h : j.state = .waitCells ∨ j.state = .waitBath) :
    s.claimWaitEnd j = s.endEarly j .failed (some .claimTimeout) := by
  unfold State.claimWaitEnd
  rcases h with h | h <;> rw [h]

theorem claimWaitEnd_claiming {s : State} {j : Job} {n : BitVec 16} {held : Bool} (h : j.state = .claiming)
    (hc : j.claim = some ⟨n, held⟩) :
    s.claimWaitEnd j = (s.endClaim n).endEarly j .failed (some .claimTimeout) := by
  unfold State.claimWaitEnd
  rw [h, hc]

theorem claimWaitEnd_asked {s : State} {j : Job} {n : BitVec 16} {held : Bool} (h : j.state = .running)
    (hc : j.shiftClaim = some ⟨n, held⟩) :
    s.claimWaitEnd j = ((s.endClaim n).updateHead fun k => { k with shiftClaim := none }).timeOutShift := by
  unfold State.claimWaitEnd
  rw [h, hc]

theorem claimWaitEnd_unasked {s : State} {j : Job} (h : j.state = .running) (hc : j.shiftClaim = none) :
    s.claimWaitEnd j = s.timeOutShift := by
  unfold State.claimWaitEnd
  rw [h, hc]

/-- Settles O43: the two kinds of early end, then the claim wait by the state of the active job. -/
theorem earlyEndAndClaimWait : Obligations.EarlyEndAndClaimWait := by
  refine ⟨fun s j r why => ?_, fun s w j rest hw due hj => ?_⟩
  · have port : (s.endEarly j r why).port = (s.writeResult (earlyResult j.tag r why)).port := by
      by_cases q : j.state = .queued
      · rw [endEarly_queued r why q]
      · rw [endEarly_active r why q]
    rw [writeResult_eq] at port
    by_cases q : j.state = .queued
    · rw [endEarly_queued r why q] at port ⊢
      exact ⟨rfl, rfl, rfl, rfl, fun no => absurd q no, fun _ => ⟨rfl, rfl⟩, port⟩
    · rw [endEarly_active r why q] at port ⊢
      exact ⟨rfl, rfl, rfl, rfl, fun _ => ⟨rfl, rfl⟩, fun yes => absurd yes q, port⟩
  · have ended {st : JobState} (h : j.state = st) (hq : st ≠ .queued) {t : State}
        (ht : (s.setClaimWait none).claimWaitEnd j = t) : exec .claimWaitExpiry s = .next t.finish :=
      (exec_claimWait_of_due hw due (activeJob_of_head hj (h ▸ hq))).trans (by rw [ht])
    refine ⟨?_, fun n held x hc => ended x (by decide) (claimWaitEnd_claiming x hc),
      fun n held x hc => ended x (by decide) (claimWaitEnd_asked x hc),
      fun x hc => ended x (by decide) (claimWaitEnd_unasked x hc)⟩
    rintro (x | x)
    · exact ended x (by decide) (claimWaitEnd_waiting (.inl x))
    · exact ended x (by decide) (claimWaitEnd_waiting (.inr x))

end Sys2Proof.Machine
end

section
/-! PROOFS. The head job admitted, a claimed job started, a waiting job tested again, and the reactions of an event (R73
to R76, R80 to R82, R182; logs 10, 11, 45). -/

namespace Sys2Proof.Machine

/-! ## The quiet station, and the buffers that count as FREE -/

theorem noHolds_iff (s : State) : s.noHolds = true ↔ s.holds.stack = [] ∧ s.holds.pending = [] := by
  unfold State.noHolds
  rw [Bool.and_eq_true, List.isEmpty_iff, List.isEmpty_iff]

theorem recoveryStands_false_iff (s : State) :
    s.recoveryStands = false ↔ ∀ e ∈ s.claims.table, e.kind ≠ .recovery := by
  simp [State.recoveryStands]

theorem quiet_iff (s : State) : s.quiet = true ↔
    s.roster.state = .active ∧ s.holds.stack = [] ∧ s.holds.pending = [] ∧
      (∀ e ∈ s.claims.table, e.kind ≠ .recovery) ∧ s.account.state = .synced := by
  unfold State.quiet
  rw [Bool.and_eq_true, Bool.and_eq_true, Bool.and_eq_true, noHolds_iff, Bool.not_eq_true', recoveryStands_false_iff,
    beq_iff_eq, beq_iff_eq, and_assoc, and_assoc, and_assoc]

theorem countsFree_iff (l : LogStore) (i : BufferId) :
    l.countsFree i = true ↔ l.buffer i = .free ∧ l.call ≠ some i := by
  simp [LogStore.countsFree]

theorem freeBuffer_a {l : LogStore} (a : l.buffer .a = .free ∧ l.call ≠ some .a) : l.freeBuffer = some .a :=
  if_pos ((countsFree_iff l .a).mpr a)

theorem freeBuffer_b {l : LogStore} (a : ¬(l.buffer .a = .free ∧ l.call ≠ some .a))
    (b : l.buffer .b = .free ∧ l.call ≠ some .b) : l.freeBuffer = some .b :=
  (if_neg (mt (countsFree_iff l .a).mp a)).trans (if_pos ((countsFree_iff l .b).mpr b))

theorem freeBuffer_none {l : LogStore} (a : ¬(l.buffer .a = .free ∧ l.call ≠ some .a))
    (b : ¬(l.buffer .b = .free ∧ l.call ≠ some .b)) : l.freeBuffer = none :=
  (if_neg (mt (countsFree_iff l .a).mp a)).trans (if_neg (mt (countsFree_iff l .b).mp b))

/-- The bath test of a reservation, with nothing left out. -/
theorem bathTest_reserve_iff (s : State) (n : Nat) :
    s.bathTest n 0 = true ↔ (s.conf.floor : Int) ≤ s.account.balance - reservations s.claims.table - n := by
  rw [bathTest_iff, Int.natCast_zero, Int.add_zero]

/-! ## Admission (R73 to R75) -/

theorem admitHead_nil {s : State} (h : s.jobs.list = []) : s.admitHead = none := by
  unfold State.admitHead; rw [h]

theorem admitHead_cons {s : State} {j : Job} {rest : List Job} (h : s.jobs.list = j :: rest) :
    s.admitHead = if j.state = .queued ∧ s.quiet = true ∧ (s.program j.slot).isEmpty = false then
        s.log.freeBuffer.map fun i =>
          ((s.setLog { s.log with call := some i }).setClaimWait (some (s.timer j.waitLength))).settleJob j
      else none := by
  unfold State.admitHead
  rw [h]
  dsimp only
  cases s.log.freeBuffer <;> rfl

theorem settleJob_bears {s : State} {j : Job}
    (h : (s.conf.floor : Int) ≤ s.account.balance - reservations s.claims.table - j.draw) :
    s.settleJob j = s.askJobClaim j :=
  if_pos ((bathTest_reserve_iff s j.draw).mpr h)

theorem settleJob_short {s : State} {j : Job}
    (h : (s.account.balance : Int) - reservations s.claims.table - j.draw < s.conf.floor) :
    s.settleJob j = s.updateHead fun k => { k with state := .waitBath } :=
  if_neg (mt (bathTest_reserve_iff s j.draw).mp (Int.not_le.mpr h))

/-! ## The start of a claimed job (R80 to R82) -/

theorem startJob_nil {s : State} (h : s.jobs.list = []) : s.startJob = none := by
  unfold State.startJob; rw [h]

theorem startJob_held {s : State} {j : Job} {rest : List Job} {n : BitVec 16} (h : s.jobs.list = j :: rest)
    (claiming : j.state = .claiming) (held : j.claim = some ⟨n, true⟩) :
    s.startJob = if s.noHolds && s.seq.hostLift != .lifting then
        some (if s.positionGood j.span then s.beginRunning j n
          else (s.endClaim n).endEarly j .failed (some .position))
      else none := by
  unfold State.startJob
  rw [h]
  dsimp only
  rw [claiming, held]

theorem mayStart_iff (s : State) : (s.noHolds && s.seq.hostLift != .lifting) = true ↔
    s.holds.stack = [] ∧ s.holds.pending = [] ∧ s.seq.hostLift ≠ .lifting := by
  rw [Bool.and_eq_true, noHolds_iff, bne_iff_ne, and_assoc]

theorem Span.holds_iff (sp : Span) (c : Nat) : sp.holds c = true ↔ sp.first ≤ c ∧ c ≤ sp.last := by
  simp [Span.holds]

theorem positionGood_iff (s : State) (sp : Span) :
    s.positionGood sp = true ↔ ∃ c, s.currentCell = some c ∧ sp.first ≤ c ∧ c ≤ sp.last := by
  unfold State.positionGood
  cases s.currentCell with
  | none => simp
  | some c => simp [Span.holds_iff]

theorem claimTicket_of_entry {s : State} {n : BitVec 16} {e : ClaimEntry} (h : s.entryOf s.own n = some e) :
    s.claimTicket n = e.ticket := by
  unfold State.claimTicket; rw [h]

theorem buffer_setBuffer (l : LogStore) (i : BufferId) (x : Buffer) : (l.setBuffer i x).buffer i = x := by
  cases i <;> rfl

theorem fillCalled_of_call {s : State} {i : BufferId} (d : DipRecord) (h : s.log.call = some i) :
    s.fillCalled d = s.setLog { s.log.setBuffer i (.filling d) with call := none } := by
  unfold State.fillCalled; rw [h]

/-- RUNNING begun, block by block: a new DIP record fills the called buffer, the captures are cleared, the program
starts. -/
theorem beginRunning_eq {s : State} {j : Job} {rest : List Job} {i : BufferId} (h : s.jobs.list = j :: rest)
    (call : s.log.call = some i) (n : BitVec 16) :
    s.beginRunning j n = { s with
      jobs := { s.jobs with
        list := { j with state := .running, dipId := some s.jobs.nextDipId, dry := none, wet := none } :: rest
        nextDipId := dipIdAfter s.jobs.nextDipId }
      log := { s.log.setBuffer i (.filling (j.newRecord s.jobs.nextDipId (s.claimTicket n) s.time.clock)) with
        call := none }
      time := { s.time with lead := s.time.lead.clear, trail := s.time.trail.clear }
      holds := { s.holds with recorded := 0 }
      seq := { s.seq with
        slot := some j.slot, index := some 0, activity := .segment, phase := some .starting, timer := .stopped
        loops := [], drainTotal := 0 } } := by
  unfold State.beginRunning
  dsimp only
  rw [fillCalled_of_call (s := { s with jobs := { s.jobs with nextDipId := dipIdAfter s.jobs.nextDipId } }) _ call]
  refine (congrArg (State.startProgram j.slot) (updateHead_cons (j := j) (rest := rest) ?_ _)).trans ?_
  · exact h
  · rfl

/-- Settles O44: the free buffers, then the head job admitted, then the claimed job started. -/
theorem headJobIsAdmittedAndStarted : Obligations.HeadJobIsAdmittedAndStarted := by
  refine ⟨fun s => ⟨fun h => ⟨admitHead_nil h, startJob_nil h⟩, freeBuffer_a, freeBuffer_b, freeBuffer_none⟩,
    fun s j rest h => ⟨fun no => ?_, fun i hq active stack pending recovery synced free program => ?_,
      fun n claiming held => ?_⟩⟩
  · rw [admitHead_cons h]
    split
    · next ok =>
      obtain ⟨queued, quiet, program⟩ := ok
      obtain ⟨active, stack, pending, recovery, synced⟩ := (quiet_iff s).mp quiet
      rcases no with x | x | x | x | ⟨e, he, x⟩ | x | x | x
      · exact absurd queued x
      · exact absurd active x
      · exact absurd stack x
      · exact absurd pending x
      · exact absurd x (recovery e he)
      · exact absurd synced x
      · rw [x]; rfl
      · rw [x] at program; cases program
    · rfl
  · intro u
    have quiet : s.quiet = true := (quiet_iff s).mpr ⟨active, stack, pending, recovery, synced⟩
    have admitted : s.admitHead = some (u.settleJob j) := by
      rw [admitHead_cons h, if_pos ⟨hq, quiet, List.isEmpty_eq_false_iff.mpr program⟩, free]
      rfl
    exact ⟨fun bears => admitted.trans (congrArg some (settleJob_bears bears)),
      fun short => admitted.trans (congrArg some (settleJob_short short))⟩
  · have start := startJob_held h claiming held
    refine ⟨fun no => ?_, fun stack pending lift => ?_⟩
    · refine start.trans (if_neg (mt (mayStart_iff s).mp fun ⟨stack, pending, lift⟩ => ?_))
      rcases no with x | x | x
      · exact x stack
      · exact x pending
      · exact lift x
    · have starts := start.trans (if_pos ((mayStart_iff s).mpr ⟨stack, pending, lift⟩))
      refine ⟨fun out => ?_, fun c i cell first last call => ?_⟩
      · rw [starts, if_neg fun good => ?_]
        obtain ⟨c, cell, inside⟩ := (positionGood_iff s j.span).mp good
        exact out c cell inside
      · have good := (positionGood_iff s j.span).mpr ⟨c, cell, first, last⟩
        rw [if_pos good, beginRunning_eq h call] at starts
        exact ⟨_, starts, rfl, rfl, rfl, rfl,
          ⟨_, buffer_setBuffer _ _ _, rfl, rfl, rfl, rfl, fun e he => claimTicket_of_entry he, rfl, rfl, rfl⟩,
          rfl, rfl, rfl⟩

/-! ## The test of a waiting job (R76) -/

theorem retest_stays {s : State} {j : Job} {rest : List Job} (h : s.jobs.list = j :: rest)
    (stays : s.retestMoves j = false) : s.retest = none := by
  unfold State.retest
  rw [h]
  dsimp only
  rw [stays]
  rfl

theorem retest_asks {s : State} {j : Job} {rest : List Job} (h : s.jobs.list = j :: rest)
    (moves : s.retestMoves j = true) (clear : s.issueRefusal .dip j.span j.draw = none) :
    s.retest = some (s.askJobClaim j) := by
  unfold State.retest
  rw [h]
  dsimp only
  rw [if_pos moves, clear]

theorem retest_places {s : State} {j : Job} {rest : List Job} {a : IssueAnswer} (h : s.jobs.list = j :: rest)
    (moves : s.retestMoves j = true) (ha : a = .blockedCells ∨ a = .blockedBath)
    (refused : s.issueRefusal .dip j.span j.draw = some a) : s.retest = some (s.placeJob a) := by
  unfold State.retest
  rw [h]
  dsimp only
  rw [if_pos moves, refused]
  rcases ha with rfl | rfl <;> rfl

/-- Without a report or a change of the account, or on a station that is not quiet, no test moves the job. -/
theorem retestMoves_notDue {s : State} (j : Job) (h : s.jobs.retestDue = false ∨ s.quiet = false) :
    s.retestMoves j = false := by
  unfold State.retestMoves
  rcases h with h | h <;> rw [h]
  · rfl
  · rw [Bool.and_false]; rfl

theorem retestMoves_waitBath {s : State} {j : Job} (due : s.jobs.retestDue = true) (quiet : s.quiet = true)
    (h : j.state = .waitBath) :
    s.retestMoves j = (s.bathTest j.draw 0 && s.issueRefusal .dip j.span j.draw != some .blockedBath) := by
  unfold State.retestMoves
  rw [due, quiet, h]
  rfl

theorem retestMoves_waitCells {s : State} {j : Job} (due : s.jobs.retestDue = true) (quiet : s.quiet = true)
    (h : j.state = .waitCells) : s.retestMoves j = (s.issueRefusal .dip j.span j.draw != some .blockedCells) := by
  unfold State.retestMoves
  rw [due, quiet, h]
  rfl

theorem retestMoves_other {s : State} {j : Job} (cells : j.state ≠ .waitCells) (bath : j.state ≠ .waitBath) :
    s.retestMoves j = false := by
  unfold State.retestMoves
  split
  · next h => exact absurd h bath
  · next h => exact absurd h cells
  · exact Bool.and_false _

theorem askJobClaim_eq {s t : State} {j : Job} {a : IssueAnswer} (h : s.askClaim .dip j.span j.draw j.tag = (t, a)) :
    s.askJobClaim j = t.placeJob a := by
  unfold State.askJobClaim; rw [h]

/-! ## The reactions of an event (log 11) -/

theorem orNext_findSome (a : Option State) (l : List (Option State)) :
    (orNext a fun _ => l.findSome? id) = (a :: l).findSome? id := by
  cases a <;> rfl

theorem advanceOnce_eq (s : State) :
    s.advanceOnce = [s.advanceSequencer, s.promote, s.startJob, s.retest, s.admitHead, s.placeCheckpoint,
      s.beginAreaWrite, s.beginErase, s.beginCommit].findSome? id := by
  have last : s.beginCommit = [s.beginCommit].findSome? id := by cases s.beginCommit <;> rfl
  unfold State.advanceOnce
  conv => lhs; rw [last]
  simp only [orNext_findSome]

/-- Settles O45: the reactions in their order, then the test of a waiting job, then where the Claim Unit's answer places
it. -/
theorem waitingJobIsTestedAfterReports : Obligations.WaitingJobIsTestedAfterReports := by
  refine ⟨fun s => ⟨advanceOnce_eq s, rfl, rfl, fun n none => settleFor_none none n,
    fun n t some => settleFor_some some n, rfl⟩, fun s j rest h => ?_,
    fun s j => ⟨fun t n asked => askJobClaim_eq asked, fun t n asked => askJobClaim_eq asked⟩⟩
  intro quiet bath answer
  refine ⟨fun idle => ?_, fun cells bath => retest_stays h (retestMoves_other cells bath),
    fun due hq waits => ?_, fun due hq waits => ?_⟩
  · have still := idle.imp id fun loud => Bool.eq_false_iff.mpr (mt (quiet_iff s).mp loud)
    exact retest_stays h (retestMoves_notDue j still)
  · have moves {a : Option IssueAnswer} (refused : s.issueRefusal .dip j.span j.draw = a) (bears : bath) :
        s.retestMoves j = (a != some .blockedBath) := by
      rw [retestMoves_waitBath due ((quiet_iff s).mpr hq) waits, (bathTest_reserve_iff s j.draw).mpr bears, refused]
      rfl
    refine ⟨fun short => retest_stays h ?_, fun bears clear => retest_asks h (moves clear bears) clear,
      fun bears cells => retest_places h (moves cells bears) (.inl rfl) cells⟩
    rw [retestMoves_waitBath due ((quiet_iff s).mpr hq) waits,
      Bool.eq_false_iff.mpr (mt (bathTest_reserve_iff s j.draw).mp short)]
    rfl
  · have moves {a : Option IssueAnswer} (refused : s.issueRefusal .dip j.span j.draw = a) :
        s.retestMoves j = (a != some .blockedCells) := by
      rw [retestMoves_waitCells due ((quiet_iff s).mpr hq) waits, refused]
    exact ⟨fun cells => retest_stays h (moves cells), fun clear => retest_asks h (moves clear) clear,
      fun short => retest_places h (moves short) (.inr rfl) short⟩

end Sys2Proof.Machine
end

section
/-! PROOFS. The close of a job: its result, draw and immersion time, its DRAW and claims, its DIP record and the last
result (R84 to R87, R147; log 40). -/

namespace Sys2Proof.Machine

/-! ## The result (R84) -/

theorem result_cancelled {j : Job} (h : j.cancelLift = true) : j.result = .cancelled := if_pos h

/-- A job that its cancel lift has not ended: by its abort reason, else by its SHIFT's wait. -/
theorem result_not_cancelled {j : Job} (h : j.cancelLift = false) :
    (j.abort = some .program → j.result = .abortedProgram) ∧ (j.abort = some .bath → j.result = .abortedBath) ∧
    (j.abort = none → j.result = if j.shiftTimedOut then .shiftTimeout else .done) := by
  unfold Job.result
  rw [h]
  refine ⟨fun a => ?_, fun a => ?_, fun a => ?_⟩ <;> rw [a] <;> rfl

/-! ## The draw (R85) -/

theorem drawOf_unweighed {dry wet : Option Nat} (expected : Nat) (h : dry = none ∨ wet = none) :
    drawOf true dry wet expected = (expected, fun f => { f with estimated := true }) := by
  rcases h with rfl | rfl
  · rfl
  · cases dry <;> rfl

/-- Both weights: a loss of weight, a gain above twice the draw expected, or the gain itself. -/
theorem drawOf_weighed (a b expected : Nat) :
    drawOf true (some a) (some b) expected =
      if b < a then (0, fun f => { f with weighAnomaly := true })
      else if 2 * expected < b - a then (b - a, fun f => { f with excess := true })
      else (b - a, id) := rfl

/-! ## The immersion time (R147) -/

theorem earliest_eq (x y : Option Time) : earliest x y =
    match x, y with
    | some a, some b => some (if timeLater a b then b else a)
    | some a, none => some a
    | none, z => z := by
  cases x with
  | none => rfl
  | some a =>
      cases y with
      | none => rfl
      | some b => exact (apply_ite some _ _ _).symm

theorem latest_eq (x y : Option Time) : latest x y =
    match x, y with
    | some a, some b => some (if timeLater b a then b else a)
    | some a, none => some a
    | none, z => z := by
  cases x with
  | none => rfl
  | some a =>
      cases y with
      | none => rfl
      | some b => exact (apply_ite some _ _ _).symm

theorem immersionOf_none {lead trail : Capture}
    (h : earliest lead.entry trail.entry = none ∨ latest lead.exit trail.exit = none) :
    immersionOf lead trail = none := by
  unfold immersionOf
  rcases h with h | h <;> rw [h]
  cases earliest lead.entry trail.entry <;> rfl

theorem immersionOf_some {lead trail : Capture} {a b : Time} (first : earliest lead.entry trail.entry = some a)
    (last : latest lead.exit trail.exit = some b) :
    immersionOf lead trail = if timeLater b a then some (b - a).toNat else none := by
  unfold immersionOf; rw [first, last]

/-! ## What the DRAW and the end of the claims leave alone -/

/-- A state that differs from another in its claims, its account, the mark of a due retest, its link and its port
only. -/
def OnlyClaims (s t : State) : Prop :=
  ∃ claims account due link port, t = { s with
    claims := claims, account := account, jobs := { s.jobs with retestDue := due }, link := link, port := port }

theorem OnlyClaims.refl (s : State) : OnlyClaims s s := ⟨_, _, _, _, _, rfl⟩

theorem OnlyClaims.trans {s t u : State} (h : OnlyClaims s t) (k : OnlyClaims t u) : OnlyClaims s u := by
  obtain ⟨_, _, _, _, _, rfl⟩ := h
  obtain ⟨_, _, _, _, _, rfl⟩ := k
  exact ⟨_, _, _, _, _, rfl⟩

theorem OnlyClaims.foldl {α : Type} {f : State → α → State} (h : ∀ s a, OnlyClaims s (f s a)) :
    ∀ (l : List α) (s : State), OnlyClaims s (l.foldl f s)
  | [], s => OnlyClaims.refl s
  | a :: l, s => (h s a).trans (OnlyClaims.foldl h l (f s a))

theorem OnlyClaims.runningJob {s t : State} (h : OnlyClaims s t) : t.runningJob = s.runningJob := by
  obtain ⟨_, _, _, _, _, rfl⟩ := h
  rfl

theorem post_onlyClaims (d : Dest) (p : Payload) (s : State) : OnlyClaims s (s.post d p) :=
  ⟨_, _, _, _, _, post_frame d p s⟩

theorem setTable_onlyClaims (t : List ClaimEntry) (s : State) : OnlyClaims s (s.setTable t) := ⟨_, _, _, _, _, rfl⟩

theorem setAccount_onlyClaims (a : Account) (s : State) : OnlyClaims s (s.setAccount a) := ⟨_, _, _, _, _, rfl⟩

theorem setApplied_onlyClaims (r : Rank) (n : Nat) (s : State) : OnlyClaims s (s.setApplied r n) :=
  ⟨_, _, _, _, _, rfl⟩

theorem raise_onlyClaims (f : Flag) (s : State) : OnlyClaims s (s.raise f) := ⟨_, _, _, _, _, rfl⟩

theorem applyAmount_onlyClaims (amount : Int) (s : State) : OnlyClaims s (s.applyAmount amount) :=
  ⟨_, _, _, _, _, applyAmount_frame amount s⟩

theorem postVerdict_onlyClaims (e : ClaimEntry) (v : Verdict) (s : State) : OnlyClaims s (s.postVerdict e v) := by
  unfold State.postVerdict
  split
  · exact post_onlyClaims _ _ s
  · exact OnlyClaims.refl s

theorem decideAgain_onlyClaims (s : State) (e : ClaimEntry) : OnlyClaims s (s.decideAgain e) := by
  unfold State.decideAgain
  dsimp only
  split
  · exact setTable_onlyClaims _ s
  · split
    · exact setTable_onlyClaims _ s
    · exact (setTable_onlyClaims _ s).trans (postVerdict_onlyClaims _ _ _)

theorem endClaim_onlyClaims (n : BitVec 16) (s : State) : OnlyClaims s (s.endClaim n) := by
  unfold State.endClaim
  split
  · exact OnlyClaims.refl s
  · exact ((post_onlyClaims _ _ s).trans (setTable_onlyClaims _ _)).trans
      (OnlyClaims.foldl decideAgain_onlyClaims _ _)

/-- An entry originated while no job is RUNNING latches no BATH hold (R33). -/
theorem originate_onlyClaims (k : EntryKind) (amount : Int) (dipId : Option Nat) {s : State}
    (h : s.runningJob = none) : OnlyClaims s (s.originate k amount dipId) := by
  unfold State.originate
  dsimp only
  have applied := (setAccount_onlyClaims { s.account with
    ownNext := heldInc s.account.ownNext
    ownSpent := s.account.ownSpent || s.account.ownNext == max32 } s).trans (applyAmount_onlyClaims amount _)
  rw [testFloor_unchanged (.inr (applied.runningJob.trans h))]
  exact ((applied.trans (setApplied_onlyClaims _ _ _)).trans (setAccount_onlyClaims _ _)).trans (post_onlyClaims _ _ _)

theorem askDraw_onlyClaims (d : DeferredDraw) {s : State} (h : s.runningJob = none) : OnlyClaims s (s.askDraw d) := by
  unfold State.askDraw State.originateDraw
  split
  · exact setAccount_onlyClaims _ s
  · split
    · exact (raise_onlyClaims _ s).trans (originate_onlyClaims _ _ _ h)
    · exact originate_onlyClaims _ _ _ h

/-- The DRAW and the claims of a job that has left RUNNING. -/
theorem closeClaims_onlyClaims (j : Job) (draw : Nat) {s : State} (h : s.runningJob = none) :
    OnlyClaims s (s.closeClaims j draw) := by
  have freed (c : Option JobClaim) {t : State} (ht : OnlyClaims s t) :
      OnlyClaims s (match c with | some x => t.endClaim x.number | none => t) := by
    cases c with
    | none => exact ht
    | some x => exact ht.trans (endClaim_onlyClaims x.number t)
  have asked : OnlyClaims s (if draw = 0 then s else s.askDraw ⟨draw, j.dipId.getD 0⟩) := by
    split
    · exact OnlyClaims.refl s
    · exact askDraw_onlyClaims _ h
  exact freed j.shiftClaim (freed j.claim asked)

/-! ## The FILLING buffer -/

theorem fillingRecord_b {l : LogStore} {d : DipRecord} (a : ∀ x, l.bufA ≠ .filling x) (b : l.bufB = .filling d) :
    l.fillingRecord = some (.b, d) := by
  unfold LogStore.fillingRecord
  split
  · next h => exact absurd h (a _)
  · next h _ => rw [b] at h; cases h; rfl
  · next none => exact absurd b (none d)

theorem fillingRecord_setBuffer {l : LogStore} {i : BufferId} {d : DipRecord} (h : l.fillingRecord = some (i, d))
    (e : DipRecord) : (l.setBuffer i (.filling e)).fillingRecord = some (i, e) := by
  unfold LogStore.fillingRecord at h
  split at h
  · cases h; rfl
  · next a => cases h; exact fillingRecord_b a rfl
  · cases h

/-- The flags changed are the FILLING record's. -/
theorem updateFlags_fillingRecord (f : DipFlags → DipFlags) (s : State) :
    (s.updateFlags f).log.fillingRecord =
      s.log.fillingRecord.map fun q => (q.1, { q.2 with flags := f q.2.flags }) := by
  unfold State.updateFlags State.updateRecord
  cases h : s.log.fillingRecord with
  | none => exact h
  | some q => exact fillingRecord_setBuffer h _

theorem updateFlags_frame (f : DipFlags → DipFlags) (s : State) :
    s.updateFlags f = { s with log := (s.updateFlags f).log } := by
  unfold State.updateFlags State.updateRecord
  split <;> rfl

theorem updateFlags_nextSeq (f : DipFlags → DipFlags) (s : State) :
    (s.updateFlags f).log.nextSeq = s.log.nextSeq := by
  unfold State.updateFlags State.updateRecord
  split
  · next i _ _ => cases i <;> rfl
  · rfl

/-- What the flags become rests on the Log Store. -/
theorem updateFlags_log_congr {s t : State} (h : t.log = s.log) (f : DipFlags → DipFlags) :
    (t.updateFlags f).log = (s.updateFlags f).log := by
  unfold State.updateFlags State.updateRecord
  rw [h]
  split
  · exact congrArg (LogStore.setBuffer _ _) h
  · exact h

/-! ## The record, and the last result (R86, R87) -/

theorem closeRecord_none {s : State} (j : Job) (draw : Nat) (h : s.log.fillingRecord = none) :
    s.closeRecord j draw = (s.removeJob j).writeResult ⟨j.tag, j.dipId, j.result, none, draw, none, false⟩ := by
  unfold State.closeRecord; rw [h]

theorem closeRecord_some {s : State} {i : BufferId} {d : DipRecord} (j : Job) (draw : Nat)
    (h : s.log.fillingRecord = some (i, d)) :
    s.closeRecord j draw = ((s.placeReady i (.dip (s.completeRecord j draw d))).removeJob j).writeResult
      ⟨j.tag, j.dipId, j.result, none, draw, some d.flags, false⟩ := by
  unfold State.closeRecord; rw [h]

/-- Steps 3 and 4 of a close touch Job Control, the Log Store and the port only. -/
theorem closeRecord_frame {j : Job} (active : j.state ≠ .queued) (draw : Nat) (s : State) :
    s.closeRecord j draw = { s with
      jobs := { s.jobs with
        list := s.jobs.list.filter fun k => k.tag != j.tag, claimWait := none
        lastResult := some ⟨j.tag, j.dipId, j.result, none, draw, s.log.fillingRecord.map (·.2.flags), false⟩ }
      log := (s.closeRecord j draw).log
      port := (s.closeRecord j draw).port } := by
  cases h : s.log.fillingRecord with
  | none => rw [closeRecord_none j draw h, removeJob_active active, writeResult_eq]; rfl
  | some q => rw [closeRecord_some j draw h, removeJob_active active, writeResult_eq]; rfl

theorem closeRecord_jobEnd (j : Job) (draw : Nat) (s : State) :
    (s.closeRecord j draw).port.flags.jobEnd = true := by
  unfold State.closeRecord
  split <;> rw [writeResult_eq]

theorem closeRecord_ready {s : State} {i : BufferId} {d : DipRecord} {j : Job} (active : j.state ≠ .queued) (draw : Nat)
    (h : s.log.fillingRecord = some (i, d)) :
    (s.closeRecord j draw).log.buffer i =
      .ready ⟨s.log.nextSeq, s.time.clock, .dip (s.completeRecord j draw d)⟩ := by
  rw [closeRecord_some j draw h, removeJob_active active, writeResult_eq]
  exact buffer_setBuffer s.log i _

/-! ## The close -/

theorem dropLiftPending_frame (s : State) :
    s.dropLiftPending = { s with holds := s.dropLiftPending.holds, port := s.dropLiftPending.port } := by
  unfold State.dropLiftPending
  split <;> rfl

/-- The job in CLOSING, the Sequencer stopped, the captures disarmed. -/
theorem enterClosing_eq {s : State} {j : Job} {rest : List Job} (h : s.jobs.list = j :: rest) :
    s.enterClosing = { s with
      jobs := { s.jobs with list := { j with state := .closing } :: rest }
      seq := s.stopSequencer.seq
      time := s.disarmCaptures.time
      holds := s.enterClosing.holds
      port := s.enterClosing.port } := by
  unfold State.enterClosing
  rw [dropLiftPending_frame, updateHead_cons h]
  rfl

/-- What the DRAW and the claims of a close have left, for the record and the last result. -/
theorem settled_parts {s : State} {j : Job} {rest : List Job} (h : s.jobs.list = j :: rest)
    (f : DipFlags → DipFlags) (draw : Nat) :
    let u := (s.enterClosing.updateFlags f).closeClaims j draw
    u.jobs.list = { j with state := .closing } :: rest ∧ u.seq = s.stopSequencer.seq ∧ u.time = s.disarmCaptures.time ∧
      u.log = (s.updateFlags f).log := by
  have closing := enterClosing_eq h
  have log : (s.enterClosing.updateFlags f).log = (s.updateFlags f).log :=
    updateFlags_log_congr (by rw [closing]) f
  have head : (s.enterClosing.updateFlags f).jobs.list = { j with state := .closing } :: rest := by
    rw [updateFlags_frame, closing]
  have seq : (s.enterClosing.updateFlags f).seq = s.stopSequencer.seq := by rw [updateFlags_frame, closing]
  have time : (s.enterClosing.updateFlags f).time = s.disarmCaptures.time := by rw [updateFlags_frame, closing]
  obtain ⟨_, _, _, _, _, settled⟩ := closeClaims_onlyClaims j draw (runningJob_none_of_head head (by simp))
  intro u
  have hu : u = _ := settled
  rw [hu]
  exact ⟨head, seq, time, log⟩

theorem closeJob_of_running {s : State} {j : Job} (h : s.runningJob = some j) :
    s.closeJob =
      ((s.enterClosing.updateFlags fun f => j.closeFlags ((drawOf s.immersed j.dry j.wet j.draw).2 f)).closeClaims j
        (drawOf s.immersed j.dry j.wet j.draw).1).closeRecord j (drawOf s.immersed j.dry j.wet j.draw).1 := by
  unfold State.closeJob; rw [h]

/-- Settles O46: the result, the draw and the immersion time, then what the close leaves, then the claims it ends. -/
theorem closeSettlesTheJob : Obligations.CloseSettlesTheJob := by
  refine ⟨fun j => ⟨result_cancelled, fun no => (result_not_cancelled no).1, fun no => (result_not_cancelled no).2.1,
      fun no a late => ?_, fun no a late => ?_⟩, fun dry wet expected f => ?_, fun lead trail => ?_,
    fun s j rest h running => ?_, fun s j draw => rfl⟩
  · rw [(result_not_cancelled no).2.2 a, late]; rfl
  · rw [(result_not_cancelled no).2.2 a, late]; rfl
  · have drawn {e : Nat × (DipFlags → DipFlags)} (h : drawOf true dry wet expected = e) :
        (drawOf true dry wet expected).1 = e.1 ∧ (drawOf true dry wet expected).2 f = e.2 f := by
      rw [h]; exact ⟨rfl, rfl⟩
    refine ⟨⟨rfl, rfl⟩, fun none => drawn (drawOf_unweighed expected none), ?_, ?_, ?_⟩ <;> rintro a b rfl rfl
    · exact fun less => drawn ((drawOf_weighed a b expected).trans (if_pos less))
    · exact fun more above => drawn ((drawOf_weighed a b expected).trans
        ((if_neg (Nat.not_lt.mpr more)).trans (if_pos above)))
    · exact fun more within => drawn ((drawOf_weighed a b expected).trans
        ((if_neg (Nat.not_lt.mpr more)).trans (if_neg (Nat.not_lt.mpr within))))
  · intro first last
    have hf : earliest lead.entry trail.entry = first := earliest_eq _ _
    have hl : latest lead.exit trail.exit = last := latest_eq _ _
    refine ⟨fun none => immersionOf_none (none.imp hf.trans hl.trans), fun a b ha hb => ?_⟩
    rw [immersionOf_some (hf.trans ha) (hl.trans hb)]
    exact ⟨fun later => if_pos later, fun no => if_neg (Bool.eq_false_iff.mp no)⟩
  · intro t d flagged settled
    have ht : t = settled.closeRecord j d.1 := closeJob_of_running (runningJob_of_head h running)
    have active : j.state ≠ .queued := by rw [running]; decide
    obtain ⟨list, seq, time, log⟩ := settled_parts h flagged d.1
    have filling := updateFlags_fillingRecord flagged s
    rw [← log] at filling
    have frame := closeRecord_frame active d.1 settled
    rw [← ht] at frame
    have jobs := congrArg State.jobs frame
    have account := congrArg State.account frame
    have claims := congrArg State.claims frame
    have link := congrArg State.link frame
    have stopped : t.seq = s.stopSequencer.seq := (congrArg State.seq frame).trans seq
    have disarmed : t.time = s.disarmCaptures.time := (congrArg State.time frame).trans time
    refine ⟨?_, congrArg JobControl.claimWait jobs, congrArg Sequencer.activity stopped,
      congrArg Sequencer.loops stopped, congrArg Sequencer.timer stopped, congrArg (·.lead.armed) disarmed, congrArg (·.trail.armed) disarmed, ?_,
      account, claims, link, ?_, fun i r hr => ?_⟩
    · refine (congrArg JobControl.list jobs).trans ?_
      rw [list, h]
      simp
    · rw [ht]; exact closeRecord_jobEnd j d.1 settled
    · refine (congrArg JobControl.lastResult jobs).trans ?_
      rw [filling, Option.map_map]
      rfl
    · rw [hr] at filling
      rw [ht, closeRecord_ready active d.1 filling, log, updateFlags_nextSeq]
      unfold State.completeRecord State.now
      rw [seq, time]
      rfl

end Sys2Proof.Machine
end

section
/-! PROOFS. The cancel carried out, and the context of an emptied stack restored (R89, R90, R100, R111, R129, R131; logs
16, 17). -/

namespace Sys2Proof.Machine

/-! ## The cancel (R89, R90) -/

theorem discardPause_nil {s : State} (h : s.holds.stack = []) : s.discardPause = s := by
  unfold State.discardPause; rw [h]

theorem discardPause_pause {s : State} {e : HoldEntry} {rest : List HoldEntry} (h : s.holds.stack = e :: rest)
    (pause : e.cls = .pause) : s.discardPause = (s.setHolds { s.holds with stack := rest }).raise .holdChange := by
  unfold State.discardPause; rw [h]; exact if_pos pause

theorem onlyPause_iff (s : State) :
    s.onlyPause = true ↔ s.holds.stack = [] ∨ ∃ e, s.holds.stack = [e] ∧ e.cls = .pause := by
  unfold State.onlyPause
  split
  · next h => simp [h]
  · next e h => simp [h]
  · next none one =>
    refine iff_of_false Bool.false_ne_true ?_
    rintro (h | ⟨e, h, -⟩)
    · exact none h
    · exact one e h

theorem cancelReady_iff (s : State) : s.cancelReady = true ↔
    (∃ j, s.runningJob = some j ∧ j.cancelPending = true) ∧
      (s.holds.stack = [] ∨ ∃ e, s.holds.stack = [e] ∧ e.cls = .pause) := by
  unfold State.cancelReady
  rw [Bool.and_eq_true, onlyPause_iff, Option.any_eq_true]

theorem endLiftPaused_iff (s : State) : s.endLiftPaused = true ↔
    s.seq.activity = .lift ∧ s.seq.liftFor = some .endLift ∧ ∃ e, s.holds.stack = [e] ∧ e.cls = .pause := by
  unfold State.endLiftPaused
  simp only [Bool.and_eq_true, beq_iff_eq, onlyPause_iff, Bool.not_eq_true', List.isEmpty_eq_false_iff, and_assoc]
  refine and_congr_right fun _ => and_congr_right fun _ => ⟨fun ⟨alone, entry⟩ => alone.resolve_left entry, ?_⟩
  rintro ⟨e, one, pause⟩
  exact ⟨.inr ⟨e, one, pause⟩, by rw [one]; exact List.cons_ne_nil _ _⟩

theorem testCancel_ready {s : State} (h : s.cancelReady = true) : s.testCancel = s.carryOutCancel := if_pos h

theorem testCancel_endLift {s : State} (no : ¬s.cancelReady = true) (h : s.endLiftPaused = true) :
    s.testCancel = s.freeEndLift := (if_neg no).trans (if_pos h)

theorem testCancel_neither {s : State} (no : ¬s.cancelReady = true) (h : ¬s.endLiftPaused = true) :
    s.testCancel = s := (if_neg no).trans (if_neg h)

/-- A cancel lift that is under way goes on, by what the Sequencer does. -/
theorem carryOutCancel_underWay {s t : State} (ht : s.discardPause = t)
    (h : t.runningJob.any (·.cancelLift) = true) : s.carryOutCancel = t.continueCancel := by
  unfold State.carryOutCancel
  rw [ht]
  exact if_pos h

theorem carryOutCancel_new {s t : State} (ht : s.discardPause = t)
    (h : t.runningJob.any (·.cancelLift) = false) :
    let u := (t.updateHead fun j => { j with cancelLift := true }).beginLift .cancel false
    s.carryOutCancel = u.setSeq { u.seq with loops := [] } := by
  unfold State.carryOutCancel
  rw [ht]
  exact if_neg (Bool.eq_false_iff.mp h)

theorem continueCancel_lift {s : State} (h : s.seq.activity = .lift) : s.continueCancel = s.postLiftMoves := by
  unfold State.continueCancel; rw [h]

theorem continueCancel_weighing {s : State} (h : s.seq.activity = .weighAfterLift) :
    s.continueCancel = s.resumeTimer := by
  unfold State.continueCancel; rw [h]

theorem continueCancel_other {s : State} (lift : s.seq.activity ≠ .lift) (weighing : s.seq.activity ≠ .weighAfterLift) :
    s.continueCancel = s := by
  unfold State.continueCancel
  split
  · next h => exact absurd h lift
  · next h => exact absurd h weighing
  · rfl

/-- The cancel carried out, its PAUSE discarded: the four cases of its lift. -/
theorem carryOutCancel_cases {s t : State} (ht : s.discardPause = t) :
    (t.runningJob.any (·.cancelLift) = true → t.seq.activity = .lift → s.carryOutCancel = t.postLiftMoves) ∧
    (t.runningJob.any (·.cancelLift) = true → t.seq.activity = .weighAfterLift → s.carryOutCancel = t.resumeTimer) ∧
    (t.runningJob.any (·.cancelLift) = true → t.seq.activity ≠ .lift → t.seq.activity ≠ .weighAfterLift →
      s.carryOutCancel = t) ∧
    (t.runningJob.any (·.cancelLift) = false →
      let u := (t.updateHead fun j => { j with cancelLift := true }).beginLift .cancel false
      s.carryOutCancel = u.setSeq { u.seq with loops := [] }) :=
  ⟨fun h lift => (carryOutCancel_underWay ht h).trans (continueCancel_lift lift),
    fun h weighing => (carryOutCancel_underWay ht h).trans (continueCancel_weighing weighing),
    fun h lift weighing => (carryOutCancel_underWay ht h).trans (continueCancel_other lift weighing),
    carryOutCancel_new ht⟩

/-! ## The context restored (R111, R129) -/

/-- A frozen segment takes its saved context and carries on. -/
theorem restoreContext_segment {s t : State} {c : SavedContext} (h : s.seq.activity = .segment)
    (ht : s.takeContext c = t) :
    (∀ g, t.segment = some g → s.restoreContext c = t.resumeSegment g) ∧
    (t.segment = none → s.restoreContext c = t) := by
  unfold State.restoreContext
  rw [h]
  dsimp only
  rw [ht]
  refine ⟨fun g hg => ?_, fun none => ?_⟩
  · rw [hg]
  · rw [none]

theorem resumeSegment_hoist {s : State} {g : Segment} {lead trail : Int} {v : Nat} (h : g.kind = .hoist lead trail v)
    (moving : s.seq.phase = some .moving) : s.resumeSegment g = s.issueHoist lead trail v g.modes := by
  unfold State.resumeSegment; rw [h, moving]

theorem resumeSegment_shift {s : State} {g : Segment} {sp : Span} (h : g.kind = .shift sp)
    (travelling : s.seq.phase = some .travelling) :
    s.resumeSegment g = if s.seq.arrivedTravel then s else s.issueTravel sp := by
  unfold State.resumeSegment; rw [h, travelling]

/-- A segment with no MOVE of its own to issue again. -/
theorem resumeSegment_timed {s : State} {g : Segment}
    (hoist : ∀ lead trail v, g.kind = .hoist lead trail v → s.seq.phase ≠ some .moving)
    (shift : ∀ sp, g.kind = .shift sp → s.seq.phase ≠ some .travelling) : s.resumeSegment g = s.resumeTimer := by
  unfold State.resumeSegment
  split
  · next kind phase => exact absurd phase (hoist _ _ _ kind)
  · next kind phase => exact absurd phase (shift _ kind)
  · rfl

theorem restoreContext_lift {s : State} (c : SavedContext) (h : s.seq.activity = .lift) :
    s.restoreContext c = s.postLiftMoves := by
  unfold State.restoreContext; rw [h]

theorem restoreContext_weighing {s : State} (c : SavedContext) (h : s.seq.activity = .weighAfterLift) :
    s.restoreContext c = s.resumeTimer := by
  unfold State.restoreContext; rw [h]

theorem restoreContext_still {s : State} (c : SavedContext) (h : s.seq.activity = .stopped ∨ s.seq.activity = .idle) :
    s.restoreContext c = s := by
  unfold State.restoreContext
  rcases h with h | h <;> rw [h]

theorem resumeTimer_suspended {s : State} {r : Nat} (h : s.seq.timer = .suspended r) :
    s.resumeTimer = s.setSeq { s.seq with timer := .running ⟨s.time.clock, r⟩ } := by
  unfold State.resumeTimer; rw [h]; rfl

theorem resumeTimer_other {s : State} (h : ∀ r, s.seq.timer ≠ .suspended r) : s.resumeTimer = s := by
  unfold State.resumeTimer
  split
  · next r e => exact absurd e (h r)
  · rfl

/-! ## A MOVE below the clear height (R100) -/

theorem effectiveSpeed_eq (s : State) (m : Modes) (v : Nat) :
    s.effectiveSpeed m v = if m.fast = true ∧ s.holds.mask.fast = false then v else min v s.conf.slowSpeed := by
  simp [State.effectiveSpeed]

/-- A hoist whose arrived mark is clear would be lowered below the clear height. -/
theorem lowers_iff (s : State) (lead trail : Int) :
    ((!s.seq.arrivedLead && s.belowClear lead) || (!s.seq.arrivedTrail && s.belowClear trail)) = true ↔
      (s.seq.arrivedLead = false ∧ lead < s.conf.clear) ∨ (s.seq.arrivedTrail = false ∧ trail < s.conf.clear) := by
  simp [State.belowClear]

theorem issueHoist_offSpan {s : State} {lead trail : Int} (v : Nat) (m : Modes)
    (lowers : (s.seq.arrivedLead = false ∧ lead < s.conf.clear) ∨ (s.seq.arrivedTrail = false ∧ trail < s.conf.clear))
    (off : s.mayLower = false) : s.issueHoist lead trail v m = s.programFault .offSpan := by
  unfold State.issueHoist
  dsimp only
  rw [(lowers_iff s lead trail).mpr lowers, off]
  rfl

theorem issueHoist_posts {s : State} {lead trail : Int} (v : Nat) (m : Modes)
    (ok : ¬((s.seq.arrivedLead = false ∧ lead < s.conf.clear) ∨
      (s.seq.arrivedTrail = false ∧ trail < s.conf.clear)) ∨ s.mayLower = true) :
    let t := if s.seq.arrivedLead then s else s.postCommand .lead (.move lead (s.effectiveSpeed m v))
    s.issueHoist lead trail v m =
      if s.seq.arrivedTrail then t else t.postCommand .trail (.move trail (s.effectiveSpeed m v)) := by
  refine if_neg fun refused => ?_
  rw [Bool.and_eq_true, lowers_iff, Bool.not_eq_true'] at refused
  obtain ⟨lowers, off⟩ := refused
  rcases ok with ok | ok
  · exact ok lowers
  · rw [off] at ok; cases ok

/-- An own HELD span, of a DIP or a SHIFT claim, that holds the current cell. -/
theorem mayLower_iff (s : State) : s.mayLower = true ↔ ∃ cell, s.currentCell = some cell ∧
    ∃ e ∈ s.claims.table, e.origin = s.own ∧ e.state = .held ∧ (e.kind = .dip ∨ e.kind = .shift) ∧
      e.span.first ≤ cell ∧ cell ≤ e.span.last := by
  unfold State.mayLower
  cases s.currentCell with
  | none => simp
  | some c => simp [State.isOwn, Span.holds_iff, and_assoc]

/-- Settles O40: the cancel, the context, the timer, and the MOVEs of a HOIST. -/
theorem cancelIsCarriedOutAndContextRestored : Obligations.CancelIsCarriedOutAndContextRestored := by
  refine ⟨fun s => ?_, fun s c => ?_, fun s => ⟨fun r => resumeTimer_suspended, resumeTimer_other⟩,
    fun s lead trail v m => ?_, mayLower_iff⟩
  · intro waits onlyPause paused bare lifts
    have ready : s.cancelReady = true ↔ waits ∧ onlyPause := cancelReady_iff s
    have held : s.endLiftPaused = true ↔ paused := endLiftPaused_iff s
    have alone {e : HoldEntry} (one : s.holds.stack = [e]) (pause : e.cls = .pause) : s.discardPause = bare :=
      discardPause_pause one pause
    refine ⟨fun w p => testCancel_ready (ready.mpr ⟨w, p⟩), fun no p => ?_,
      fun no p => testCancel_neither (mt ready.mp no) (mt held.mp p),
      fun empty => carryOutCancel_cases (discardPause_nil empty),
      fun e one pause => carryOutCancel_cases (alone one pause)⟩
    have freed := testCancel_endLift (mt ready.mp no) (held.mpr p)
    obtain ⟨-, -, e, one, pause⟩ := p
    exact freed.trans (congrArg State.postLiftMoves (alone one pause))
  · intro t
    have taken : s.takeContext c = t := rfl
    refine ⟨fun g lead trail v a hg kind moving => ?_, fun g sp a hg kind travelling => ?_,
      fun g a hg hoist shift => ?_, fun a none => (restoreContext_segment a taken).2 none, restoreContext_lift c,
      restoreContext_weighing c, restoreContext_still c⟩
    · exact ((restoreContext_segment a taken).1 g hg).trans (resumeSegment_hoist kind moving)
    · have resumed := ((restoreContext_segment a taken).1 g hg).trans (resumeSegment_shift kind travelling)
      exact ⟨fun arrived => resumed.trans (if_pos arrived),
        fun no => resumed.trans (if_neg (Bool.eq_false_iff.mp no))⟩
    · exact ((restoreContext_segment a taken).1 g hg).trans (resumeSegment_timed hoist shift)
  · intro speed lowers
    refine ⟨fun low off => issueHoist_offSpan v m low off, fun ok => ?_⟩
    have posts := issueHoist_posts v m ok
    rw [effectiveSpeed_eq] at posts
    exact posts

end Sys2Proof.Machine
end

section
/-! PROOFS. Programs: their validation, LOAD_PROGRAM and READ_PROGRAM, and the segments as a slot stores them (R92 to
R95, R212; log 21). -/

namespace Sys2Proof.Machine

/-! ## The first segment with the last flag -/

theorem lastIndexOf_none {segs : List RawSegment} (h : ∀ r ∈ segs, r.flags.getLsbD 0 = false) :
    lastIndexOf segs = none :=
  List.findIdx?_eq_none_iff.mpr h

theorem lastIndexOf_append {l : List RawSegment} {r : RawSegment} (m : List RawSegment)
    (before : ∀ q ∈ l, q.flags.getLsbD 0 = false) (last : r.flags.getLsbD 0 = true) :
    lastIndexOf (l ++ r :: m) = some l.length := by
  have none : List.findIdx? rawLast l = none := lastIndexOf_none before
  have here : rawLast r = true := last
  unfold lastIndexOf
  rw [List.findIdx?_append, none, List.findIdx?_cons, if_pos here, Option.none_or, Option.map_some, Nat.zero_add]

/-! ## The first failing segment -/

section
variable {cfg : Option ConfigRecord} {segs : List RawSegment} {li : Nat}

theorem firstBadSegment_good {index : Nat} {r : RawSegment} (rest : List RawSegment)
    (h : segmentFailure cfg segs li index r = none) :
    firstBadSegment cfg segs li index (r :: rest) = firstBadSegment cfg segs li (index + 1) rest := by
  rw [firstBadSegment, h]

theorem firstBadSegment_bad {index : Nat} {r : RawSegment} {why : LoadReason} (rest : List RawSegment)
    (h : segmentFailure cfg segs li index r = some why) :
    firstBadSegment cfg segs li index (r :: rest) = some (index, why) := by
  rw [firstBadSegment, h]

theorem firstBadSegment_none : ∀ (rest : List RawSegment) (index : Nat),
    (∀ k r, rest[k]? = some r → segmentFailure cfg segs li (index + k) r = none) →
    firstBadSegment cfg segs li index rest = none
  | [], _, _ => rfl
  | a :: rest, index, good => by
      refine (firstBadSegment_good rest (good 0 a rfl)).trans ?_
      refine firstBadSegment_none rest (index + 1) fun k r hr => ?_
      rw [Nat.add_right_comm]
      exact good (k + 1) r hr

theorem firstBadSegment_some {r : RawSegment} {why : LoadReason} : ∀ (rest : List RawSegment) (index i : Nat),
    rest[i]? = some r → segmentFailure cfg segs li (index + i) r = some why →
    (∀ k q, k < i → rest[k]? = some q → segmentFailure cfg segs li (index + k) q = none) →
    firstBadSegment cfg segs li index rest = some (index + i, why)
  | a :: rest, index, 0, hr, bad, _ => by
      cases hr
      exact firstBadSegment_bad rest bad
  | a :: rest, index, i + 1, hr, bad, good => by
      refine (firstBadSegment_good rest (good 0 a (Nat.succ_pos i) rfl)).trans ?_
      rw [Nat.add_comm i 1, ← Nat.add_assoc]
      refine firstBadSegment_some rest (index + 1) i hr ?_ fun k q hk hq => ?_
      · rw [Nat.add_right_comm]; exact bad
      · rw [Nat.add_right_comm]; exact good (k + 1) q (Nat.succ_lt_succ hk) hq

/-- The segments that are validated: those up to the first last flag. -/
theorem getElem?_upTo {k : Nat} {q : RawSegment} (h : (segs.take (li + 1))[k]? = some q) :
    k ≤ li ∧ segs[k]? = some q := by
  rw [List.getElem?_take] at h
  split at h
  · next lt => exact ⟨Nat.le_of_lt_succ lt, h⟩
  · cases h

theorem validate_none (hl : lastIndexOf segs = some li)
    (good : ∀ i r, i ≤ li → segs[i]? = some r → segmentFailure cfg segs li i r = none) : validate cfg segs = none := by
  unfold validate
  rw [hl]
  refine firstBadSegment_none _ 0 fun k r hr => ?_
  obtain ⟨hk, hr⟩ := getElem?_upTo hr
  rw [Nat.zero_add]
  exact good k r hk hr

theorem validate_some {i : Nat} {r : RawSegment} {why : LoadReason} (hl : lastIndexOf segs = some li) (hi : i ≤ li)
    (hr : segs[i]? = some r) (bad : segmentFailure cfg segs li i r = some why)
    (good : ∀ k q, k < i → segs[k]? = some q → segmentFailure cfg segs li k q = none) :
    validate cfg segs = some (i, why) := by
  have found : (segs.take (li + 1))[i]? = some r := by rw [List.getElem?_take, if_pos (Nat.lt_succ_of_le hi), hr]
  unfold validate
  rw [hl]
  refine (firstBadSegment_some _ 0 i found ?_ fun k q hk hq => ?_).trans (by rw [Nat.zero_add])
  · rw [Nat.zero_add]; exact bad
  · rw [Nat.zero_add]; exact good k q hk (getElem?_upTo hq).2

end

/-! ## The reasons (R95), each in the words of its row -/

theorem modeBad_iff (r : RawSegment) :
    modeBad r = true ↔ 15 < r.flags.toNat ∨ (r.kind ≠ 0#8 ∧ 1 < r.flags.toNat) := by
  simp [modeBad]

theorem operandBad_iff (r : RawSegment) : operandBad r = true ↔
    (r.kind = 0#8 ∧ (RawSegment.nat r 4 2 < 10 ∨ 500 < RawSegment.nat r 4 2)) ∨
      ((r.kind = 1#8 ∨ r.kind = 2#8) ∧ 600000 < RawSegment.nat r 0 4) ∨
      (r.kind = 3#8 ∧ (1 < RawSegment.nat r 0 1 ∨ RawSegment.nat r 1 2 < 200 ∨ 10000 < RawSegment.nat r 1 2)) ∨
      (r.kind = 4#8 ∧ RawSegment.nat r 0 1 = 0) := by
  have named {k : BitVec 8} (h : r.kind.toNat = k.toNat) : r.kind = k := BitVec.eq_of_toNat_eq h
  unfold operandBad
  split
  · next h => simp [named (k := 0#8) h]
  · next h => simp [named (k := 1#8) h]
  · next h => simp [named (k := 2#8) h]
  · next h => simp [named (k := 3#8) h, or_assoc]
  · next h => simp [named (k := 4#8) h]
  · next h0 h1 h2 h3 h4 =>
    have other {k : BitVec 8} (h : ¬r.kind.toNat = k.toNat) : r.kind ≠ k := mt (congrArg BitVec.toNat) h
    simp [other (k := 0#8) h0, other (k := 1#8) h1, other (k := 2#8) h2, other (k := 3#8) h3, other (k := 4#8) h4]

theorem heightBad_iff (cfg : Option ConfigRecord) (r : RawSegment) : heightBad cfg r = true ↔
    r.kind = 0#8 ∧ ∀ c, cfg = some c →
      ¬(c.lowerLimit ≤ RawSegment.int r 0 ∧ RawSegment.int r 0 ≤ c.upperLimit ∧
        c.lowerLimit ≤ RawSegment.int r 2 ∧ RawSegment.int r 2 ≤ c.upperLimit) := by
  unfold heightBad
  cases cfg with
  | none => simp
  | some c => simp only [Bool.and_eq_true, beq_iff_eq, Bool.not_eq_true', ← Bool.not_eq_true, decide_eq_true_iff,
      and_assoc, Option.some.injEq, forall_eq']

theorem rawLoopEnd_eq_some (r : RawSegment) (e : Nat) :
    rawLoopEnd r = some e ↔ r.kind = 4#8 ∧ RawSegment.nat r 1 1 = e := by
  simp [rawLoopEnd]

theorem loopBad_iff (li i : Nat) (r : RawSegment) : loopBad li i r = true ↔
    r.kind = 4#8 ∧ (RawSegment.nat r 1 1 ≤ i ∨ li < RawSegment.nat r 1 1) := by
  unfold loopBad rawLoopEnd
  by_cases h : r.kind = 4#8
  · simp [h]
  · simp [h]

/-- An earlier REPEAT that still runs at `i` and ends before `e`. -/
theorem endsInside_iff (i e : Nat) (q : RawSegment) :
    (match rawLoopEnd q with
      | some a => decide (i ≤ a) && decide (a < e)
      | none => false) = true ↔ q.kind = 4#8 ∧ i ≤ RawSegment.nat q 1 1 ∧ RawSegment.nat q 1 1 < e := by
  unfold rawLoopEnd
  by_cases h : q.kind = 4#8
  · simp [h]
  · simp [h]

theorem loopCrosses_iff (segs : List RawSegment) (i : Nat) (r : RawSegment) : loopCrosses segs i r = true ↔
    r.kind = 4#8 ∧ ∃ a q, a < i ∧ segs[a]? = some q ∧ q.kind = 4#8 ∧ i ≤ RawSegment.nat q 1 1 ∧
      RawSegment.nat q 1 1 < RawSegment.nat r 1 1 := by
  unfold loopCrosses
  cases h : rawLoopEnd r with
  | none =>
    refine iff_of_false Bool.false_ne_true fun ⟨kind, _⟩ => ?_
    rw [(rawLoopEnd_eq_some r _).mpr ⟨kind, rfl⟩] at h
    cases h
  | some e =>
    obtain ⟨kind, rfl⟩ := (rawLoopEnd_eq_some r e).mp h
    rw [List.any_eq_true]
    refine ⟨fun ⟨q, hq, inside⟩ => ?_, fun ⟨_, a, q, ha, hq, inside⟩ => ?_⟩
    · obtain ⟨a, ha, hq⟩ := List.mem_take_iff_getElem.mp hq
      exact ⟨kind, a, q, Nat.lt_of_lt_of_le ha (Nat.min_le_left _ _), List.getElem?_eq_some_iff.mpr ⟨_, hq⟩,
        (endsInside_iff _ _ q).mp inside⟩
    · refine ⟨q, ?_, (endsInside_iff _ _ q).mpr inside⟩
      obtain ⟨bound, hq⟩ := List.getElem?_eq_some_iff.mp hq
      exact List.mem_take_iff_getElem.mpr ⟨a, Nat.lt_min.mpr ⟨ha, bound⟩, hq⟩

theorem spanBad_iff (cfg : Option ConfigRecord) (r : RawSegment) : spanBad cfg r = true ↔
    r.kind = 5#8 ∧ ∀ c, cfg = some c →
      ¬(RawSegment.nat r 0 1 ≤ RawSegment.nat r 1 1 ∧ RawSegment.nat r 1 1 < c.cells ∧
        ∃ w, c.reach[c.ownRank] = some w ∧ w.first ≤ RawSegment.nat r 0 1 ∧ RawSegment.nat r 1 1 ≤ w.last) := by
  unfold spanBad
  cases cfg with
  | none => simp
  | some c => simp only [Span.valid, Bool.and_eq_true, beq_iff_eq, Bool.not_eq_true', ← Bool.not_eq_true,
      decide_eq_true_iff, withinReach_iff, and_assoc, Option.some.injEq, forall_eq']

/-- Settles O48: the first failing segment, then the reasons in the order of R95's table. -/
theorem loadedProgramIsValidated : Obligations.LoadedProgramIsValidated := by
  refine ⟨fun cfg segs => ⟨fun no => ?_, fun li hl => ⟨validate_none hl, fun i r why hi hr bad good =>
    validate_some hl hi hr bad good⟩⟩, fun cfg segs li i r => ?_⟩
  · unfold validate; rw [lastIndexOf_none no]
  · intro n h kind mode operand height loop cross span fails
    have tests : fails = if kind then some .badKind else if modeBad r then some .badMode
        else if operandBad r then some .badOperand else if heightBad cfg r then some .badHeight
        else if loopBad li i r then some .badLoop else if loopCrosses segs i r then some .loopCross
        else if spanBad cfg r then some .badSpan else none := rfl
    have byMode : modeBad r = true ↔ mode := modeBad_iff r
    have byOperand : operandBad r = true ↔ operand := operandBad_iff r
    have byHeight : heightBad cfg r = true ↔ height := heightBad_iff cfg r
    have byLoop : loopBad li i r = true ↔ loop := loopBad_iff li i r
    have byCross : loopCrosses segs i r = true ↔ cross := loopCrosses_iff segs i r
    have bySpan : spanBad cfg r = true ↔ span := spanBad_iff cfg r
    have named (a : ¬kind) := tests.trans (if_neg a)
    have moded (a : ¬kind) (b : ¬mode) := (named a).trans (if_neg (mt byMode.mp b))
    have ranged (a : ¬kind) (b : ¬mode) (c : ¬operand) := (moded a b).trans (if_neg (mt byOperand.mp c))
    have placed (a : ¬kind) (b : ¬mode) (c : ¬operand) (d : ¬height) :=
      (ranged a b c).trans (if_neg (mt byHeight.mp d))
    have looped (a : ¬kind) (b : ¬mode) (c : ¬operand) (d : ¬height) (e : ¬loop) :=
      (placed a b c d).trans (if_neg (mt byLoop.mp e))
    have nested (a : ¬kind) (b : ¬mode) (c : ¬operand) (d : ¬height) (e : ¬loop) (f : ¬cross) :=
      (looped a b c d e).trans (if_neg (mt byCross.mp f))
    exact ⟨fun a => tests.trans (if_pos a), fun a b => (named a).trans (if_pos (byMode.mpr b)),
      fun a b c => (moded a b).trans (if_pos (byOperand.mpr c)),
      fun a b c d => (ranged a b c).trans (if_pos (byHeight.mpr d)),
      fun a b c d e => (placed a b c d).trans (if_pos (byLoop.mpr e)),
      fun a b c d e f => (looped a b c d e).trans (if_pos (byCross.mpr f)),
      fun a b c d e f g => (nested a b c d e f).trans (if_pos (bySpan.mpr g)),
      fun a b c d e f g => (nested a b c d e f).trans (if_neg (mt bySpan.mp g))⟩

/-! ## LOAD_PROGRAM (R94) -/

/-- A command that is neither a reset nor LOAD_PROGRAM leaves the slots alone. -/
theorem exec_programs {c : Instr} {s t : State} (h : exec c s = .next t) :
    t.programs = s.programs ∨ c = .powerOn ∨ c = .resetAsserted ∨ ∃ slot segs, c = .loadProgram slot segs := by
  have kept {u : State} (hu : exec c s = .next u) (same : u.programs = s.programs) : t.programs = s.programs := by
    cases h.symm.trans hu
    exact same
  rcases exec_cases c s with carried | reset | reset | rfl | rfl | rfl | ⟨k, rfl⟩ | load
  · obtain ⟨u, hu, carries⟩ := carried
    exact .inl (kept hu carries.programs)
  · exact .inr (.inl reset)
  · exact .inr (.inr (.inl reset))
  · obtain ⟨u, hu, -, same, -⟩ := resetReleased_runs s
    exact .inl (kept hu same)
  · obtain ⟨u, hu, -, same, -⟩ := startUpScanEnd_runs s
    exact .inl (kept hu same)
  · obtain ⟨u, hu, -, same, -⟩ := joinWindowExpiry_runs s
    exact .inl (kept hu same)
  · exact .inl (kept (exec_command k s) (dispatch_isolates k s).2.1)
  · exact .inr (.inr (.inr load))

section
variable {s : State} {slot : Nat} {segs : List RawSegment}

theorem load_outOfRange (h : ¬(slot < 8 ∧ segs.length ≤ 32)) : s.load slot segs = s.invalid := by
  unfold State.load
  split
  · next hs => exact if_pos (Nat.not_le.mp fun hl => h ⟨hs, hl⟩)
  · rfl

/-- The tests after the ranges. -/
theorem load_inRange (hs : slot < 8) (hl : segs.length ≤ 32) :
    s.load slot segs = if s.jobs.list.any (·.slot == slot) then s.busy
      else match if segs.isEmpty then none else validate s.roster.config segs with
        | some (index, why) => s.reply .invalid (.segmentFailure index why)
        | none => (({ s with programs := ⟨s.programs.slots.set slot (storedProgram segs)⟩ } : State).ok
            (.count (storedProgram segs).length)) :=
  (dif_pos hs).trans (if_neg (Nat.not_lt.mpr hl))

theorem slotUsed_iff : s.jobs.list.any (·.slot == slot) = true ↔ ¬∀ j ∈ s.jobs.list, j.slot ≠ slot := by
  simp

theorem load_used (hs : slot < 8) (hl : segs.length ≤ 32) (used : ¬∀ j ∈ s.jobs.list, j.slot ≠ slot) :
    s.load slot segs = s.busy :=
  (load_inRange hs hl).trans (if_pos (slotUsed_iff.mpr used))

theorem load_failing {index : Nat} {why : LoadReason} (hs : slot < 8) (hl : segs.length ≤ 32)
    (unused : ∀ j ∈ s.jobs.list, j.slot ≠ slot) (sent : segs ≠ [])
    (fails : validate s.roster.config segs = some (index, why)) :
    s.load slot segs = s.reply .invalid (.segmentFailure index why) := by
  rw [load_inRange hs hl, if_neg fun used => slotUsed_iff.mp used unused,
    if_neg fun empty => sent (List.isEmpty_iff.mp empty), fails]

theorem load_stores (hs : slot < 8) (hl : segs.length ≤ 32) (unused : ∀ j ∈ s.jobs.list, j.slot ≠ slot)
    (valid : segs = [] ∨ validate s.roster.config segs = none) :
    s.load slot segs = ({ s with programs := ⟨s.programs.slots.set slot (storedProgram segs)⟩ } : State).ok
      (.count (storedProgram segs).length) := by
  have passes : (if segs.isEmpty then none else validate s.roster.config segs) = none := by
    rcases valid with rfl | valid
    · rfl
    · rw [valid, ite_self]
  rw [load_inRange hs hl, if_neg fun used => slotUsed_iff.mp used unused, passes]

end

/-! ## READ_PROGRAM (R92) -/

theorem exec_readProgram {s : State} (h : s.Listens) (slot : Nat) :
    let w := s.working (.readProgram slot)
    exec (.readProgram slot) s =
      .next (if slot < 8 then w.ok (.program (s.program slot)) else w.invalid).finish :=
  request_of_listens h (.readProgram slot) fun t => if slot < 8 then t.ok (.program (t.program slot)) else t.invalid

/-! ## The segments as stored (R93, R212) -/

theorem storedProgram_none {segs : List RawSegment} (h : ∀ r ∈ segs, r.flags.getLsbD 0 = false) :
    storedProgram segs = [] := by
  unfold storedProgram; rw [lastIndexOf_none h]

theorem storedProgram_append {l : List RawSegment} {r : RawSegment} (m : List RawSegment)
    (before : ∀ q ∈ l, q.flags.getLsbD 0 = false) (last : r.flags.getLsbD 0 = true) :
    storedProgram (l ++ r :: m) = (l ++ [r]).map storedSegment := by
  have upTo : (l ++ r :: m).take (l.length + 1) = l ++ [r] := by
    rw [List.take_length_add_append, List.take_succ_cons, List.take_zero]
  unfold storedProgram
  rw [lastIndexOf_append m before last]
  exact congrArg (List.map storedSegment) upTo

/-- The kind of a segment, by its kind byte. -/
theorem rawKind_cases (r : RawSegment) :
    (r.kind = 0#8 → rawKind r = .hoist (RawSegment.int r 0) (RawSegment.int r 2) (RawSegment.nat r 4 2)) ∧
    (r.kind = 1#8 → rawKind r = .dwell (RawSegment.nat r 0 4)) ∧
    (r.kind = 2#8 → rawKind r = .drain (RawSegment.nat r 0 4)) ∧
    (r.kind = 3#8 → rawKind r = .weigh (if RawSegment.nat r 0 1 = 0 then .dry else .wet) (RawSegment.nat r 1 2)) ∧
    (r.kind = 4#8 → rawKind r = .loop (RawSegment.nat r 0 1) (RawSegment.nat r 1 1)) ∧
    (r.kind = 5#8 → rawKind r = .shift ⟨RawSegment.nat r 0 1, RawSegment.nat r 1 1⟩) := by
  unfold rawKind
  refine ⟨fun h => ?_, fun h => ?_, fun h => ?_, fun h => ?_, fun h => ?_, fun h => ?_⟩ <;> rw [h] <;> rfl

/-- Settles O47: no other command loads; LOAD_PROGRAM test by test; READ_PROGRAM; then the segments stored. -/
theorem slotsChangeOnlyByLoading : Obligations.SlotsChangeOnlyByLoading := by
  refine ⟨fun c s t h changed => (exec_programs h).resolve_left changed, fun s slot segs h => ?_,
    fun s slot h => ⟨fun hs => ?_, fun hs => ?_⟩,
    fun segs => ⟨storedProgram_none, ?_⟩, fun r => ?_⟩
  · intro c w ranges unused
    have worked {t : State} (ht : w.load slot segs = t) : exec c s = .next t.finish :=
      (request_of_listens h _ _).trans (by rw [ht])
    refine ⟨fun out => worked (load_outOfRange out), fun ⟨hs, hl⟩ used => worked (load_used hs hl used),
      fun index why ⟨hs, hl⟩ free sent fails => worked (load_failing hs hl free sent fails),
      fun hs hl free valid => worked (load_stores hs hl free valid)⟩
  · exact (exec_readProgram h slot).trans (by rw [if_pos hs])
  · exact (exec_readProgram h slot).trans (by rw [if_neg (Nat.not_lt.mpr hs)])
  · rintro l r m rfl before last
    exact storedProgram_append m before last
  · obtain ⟨hoist, dwell, drain, weigh, loop, shift⟩ := rawKind_cases r
    refine ⟨rfl, rfl, hoist, dwell, drain, fun h dry => (weigh h).trans ?_, fun h wet => (weigh h).trans ?_, loop,
      shift⟩
    · exact congrArg (SegmentKind.weigh · _) (if_pos dry)
    · exact congrArg (SegmentKind.weigh · _) (if_neg fun dry => Nat.one_ne_zero (wet.symm.trans dry))

end Sys2Proof.Machine
end

section
/-! PROOFS. The start of a segment by its kind, the program faults, and the captures that a SENSE HOIST arms (R96, R98
to R105, R110, R131, R145; logs 16, 39). -/

namespace Sys2Proof.Machine

/-! ## HOIST (R99 to R101) -/

/-- What R100 reads: the travel's latest report, the configured values and the claims. -/
theorem mayLower_congr {s t : State} (report : (t.channel .travel).report = (s.channel .travel).report)
    (conf : t.conf = s.conf) (claims : t.claims = s.claims) : t.mayLower = s.mayLower := by
  have cell : t.currentCell = s.currentCell := by unfold State.currentCell; rw [report, conf]
  have isOwn : t.isOwn = s.isOwn := funext fun e => by unfold State.isOwn; rw [own_congr conf]
  unfold State.mayLower
  rw [cell, claims, isOwn]

/-- The MOVEs of a HOIST that starts: no mark is set and no mode masked. -/
theorem issueHoist_unmarked {s : State} (noLead : s.seq.arrivedLead = false) (noTrail : s.seq.arrivedTrail = false)
    (unmasked : s.holds.mask.fast = false) (lead trail : Int) (v : Nat) (m : Modes) :
    let speed := if m.fast then v else min v s.conf.slowSpeed
    let lowers := lead < s.conf.clear ∨ trail < s.conf.clear
    (lowers → s.mayLower = false → s.issueHoist lead trail v m = s.programFault .offSpan) ∧
    (¬lowers ∨ s.mayLower = true → s.issueHoist lead trail v m =
      (s.postCommand .lead (.move lead speed)).postCommand .trail (.move trail speed)) := by
  intro speed lowers
  have low : ((s.seq.arrivedLead = false ∧ lead < s.conf.clear) ∨ (s.seq.arrivedTrail = false ∧ trail < s.conf.clear)) ↔
      lowers := or_congr (and_iff_right noLead) (and_iff_right noTrail)
  have effective : s.effectiveSpeed m v = speed := by simp only [effectiveSpeed_eq, and_iff_left unmasked, speed]
  refine ⟨fun l off => issueHoist_offSpan v m (low.mpr l) off, fun ok => ?_⟩
  have posts := issueHoist_posts v m (ok.imp (mt low.mp) id)
  rw [noLead, noTrail, effective] at posts
  exact posts

/-- A capture armed or not touches the times only. -/
theorem armIf_frame (sense : Bool) (s : State) :
    (if sense then s.armCaptures else s) = { s with time := (if sense then s.armCaptures else s).time } := by
  cases sense <;> rfl

/-! ## The start by kind -/

section
variable {s : State} {g : Segment}

theorem startKind_hoist {lead trail : Int} {v : Nat} (h : g.kind = .hoist lead trail v) :
    s.startKind g =
      ((if g.modes.sense then s.armCaptures else s).setPhase .moving).issueHoist lead trail v g.modes := by
  unfold State.startKind; rw [h]

theorem startKind_dwell {n : Nat} (h : g.kind = .dwell n) :
    s.startKind g = if n = 0 then s.setPhase .complete else s.startTiming n := by
  unfold State.startKind; rw [h]

theorem anyContact_iff : s.anyContact = true ↔ s.time.lead.on = true ∨ s.time.trail.on = true := by
  unfold State.anyContact; rw [Bool.or_eq_true]

theorem startKind_drain_wet {n : Nat} (h : g.kind = .drain n) (wet : s.time.lead.on = true ∨ s.time.trail.on = true) :
    s.startKind g = s.programFault .drainWet := by
  unfold State.startKind
  rw [h]
  exact if_pos (anyContact_iff.mpr wet)

theorem startKind_drain_dry {n : Nat} (h : g.kind = .drain n) (lead : s.time.lead.on = false)
    (trail : s.time.trail.on = false) :
    s.startKind g = if n = 0 then s.setPhase .complete else s.startTiming n := by
  unfold State.startKind
  rw [h]
  refine if_neg fun wet => ?_
  rw [anyContact_iff, lead, trail] at wet
  exact wet.elim Bool.false_ne_true Bool.false_ne_true

theorem startKind_weigh {role : Role} {n : Nat} (h : g.kind = .weigh role n) :
    s.startKind g = s.setPhase .settling := by
  unfold State.startKind; rw [h]

theorem startKind_loop_room {n last i : Nat} (h : g.kind = .loop n last) (hi : s.seq.index = some i)
    (room : s.seq.loops.length < 4) :
    s.startKind g = s.setSeq { s.seq with loops := ⟨i + 1, last, n⟩ :: s.seq.loops, phase := some .complete } := by
  unfold State.startKind
  rw [h]
  refine (if_pos room).trans ?_
  rw [hi]
  rfl

theorem startKind_loop_full {n last : Nat} (h : g.kind = .loop n last) (full : 4 ≤ s.seq.loops.length) :
    s.startKind g = s.programFault .repeatOverflow := by
  unfold State.startKind
  rw [h]
  exact if_neg (Nat.not_lt.mpr full)

theorem bothClear_iff : s.bothClear = true ↔ s.aboveClear .lead = true ∧ s.aboveClear .trail = true := by
  unfold State.bothClear; rw [Bool.and_eq_true]

theorem startKind_shift_wet {sp : Span} (h : g.kind = .shift sp)
    (wet : ¬(s.aboveClear .lead = true ∧ s.aboveClear .trail = true)) :
    s.startKind g = s.programFault .shiftWet := by
  unfold State.startKind
  rw [h]
  exact if_neg (mt bothClear_iff.mp wet)

theorem startKind_shift_clear {sp : Span} {j : Job} (h : g.kind = .shift sp)
    (clear : s.aboveClear .lead = true ∧ s.aboveClear .trail = true) (hj : s.runningJob = some j) :
    s.startKind g = (s.setClaimWait (some ⟨s.time.clock, j.waitLimit * 1000⟩)).askShift sp j := by
  unfold State.startKind
  rw [h]
  refine (if_pos (bothClear_iff.mpr clear)).trans ?_
  rw [hj]
  rfl

end

/-! ## Program faults (R110) and the time a DRAIN has counted (R103) -/

theorem programFault_eq (f : ProgramFault) (s : State) :
    s.programFault f = ((s.setSeq { s.seq with
      activity := .stopped, phase := none, timer := .stopped
      drainTotal := min (s.seq.drainTotal + s.drainCounted) 4294967295 }).updateFlags fun x => match f with
        | .drainWet => { x with drainWet := true }
        | .repeatOverflow => { x with repeatOverflow := true }
        | .shiftWet => { x with shiftWet := true }
        | .offSpan => { x with offSpan := true }).latch .program (.program f) := by
  cases f <;> rfl

theorem drainCounted_running {s : State} {n : Nat} {t : Timer} (drain : s.activeKind = some (.drain n))
    (timer : s.seq.timer = .running t) : s.drainCounted = n - t.remaining s.time.clock := by
  unfold State.drainCounted; rw [drain, timer]; rfl

theorem drainCounted_suspended {s : State} {n r : Nat} (drain : s.activeKind = some (.drain n))
    (timer : s.seq.timer = .suspended r) : s.drainCounted = n - r := by
  unfold State.drainCounted; rw [drain, timer]; rfl

theorem drainCounted_none {s : State} (h : s.seq.timer = .stopped ∨ ∀ n, s.activeKind ≠ some (.drain n)) :
    s.drainCounted = 0 := by
  unfold State.drainCounted
  split
  · next n r drain left =>
    rcases h with stopped | other
    · rw [stopped] at left; cases left
    · exact absurd drain (other n)
  · rfl

/-! ## The captures (R145) -/

theorem armCaptures_get (s : State) (hook : Hook) :
    s.armCaptures.time.get hook = (s.time.get hook).arm s.time.clock := by
  cases hook <;> rfl

theorem arm_armed {c : Capture} (now : Time) (h : c.armed = true) : c.arm now = c := if_pos h

theorem arm_unarmed {c : Capture} (now : Time) (h : c.armed = false) :
    c.arm now = { c with armed := true, entry := if c.on && c.entry.isNone then some now else c.entry } :=
  if_neg (Bool.eq_false_iff.mp h)

theorem arm_on {c : Capture} (now : Time) (h : c.armed = false) (on : c.on = true) (absent : c.entry = none) :
    c.arm now = { c with armed := true, entry := some now } := by
  rw [arm_unarmed now h, on, absent]; rfl

theorem arm_kept {c : Capture} (now : Time) (h : c.armed = false) (kept : c.on = false ∨ c.entry ≠ none) :
    c.arm now = { c with armed := true } := by
  rw [arm_unarmed now h]
  rcases kept with off | present
  · rw [off]; rfl
  · rw [Option.isNone_eq_false_iff.mpr (Option.isSome_iff_ne_none.mpr present), Bool.and_false]; rfl

/-- Settles O49: the start of each kind, then the program fault, then the captures. -/
theorem segmentStartsByItsKind : Obligations.SegmentStartsByItsKind := by
  refine ⟨fun s g => ?_, fun s f => ⟨programFault_eq f s, fun n t => drainCounted_running,
    fun n r => drainCounted_suspended, drainCounted_none⟩, fun s => ⟨rfl, fun hook => ?_⟩⟩
  · intro u done times clear
    have begun {t : State} (ht : u.startKind g = t) : s.startSegment g = t := ht
    refine ⟨fun lead trail v kind => ?_, fun kind => begun ((startKind_dwell kind).trans (if_pos rfl)),
      fun n kind positive => begun ((startKind_dwell kind).trans (if_neg positive)),
      fun n kind wet => begun (startKind_drain_wet kind wet),
      fun kind lead trail => begun ((startKind_drain_dry (s := u) kind lead trail).trans (if_pos rfl)),
      fun n kind positive lead trail => begun ((startKind_drain_dry (s := u) kind lead trail).trans (if_neg positive)),
      fun role n kind => begun (startKind_weigh kind),
      fun n last i kind hi => ⟨fun room => begun (startKind_loop_room kind hi room),
        fun full => begun (startKind_loop_full kind full)⟩,
      fun sp kind wet => begun (startKind_shift_wet kind wet),
      fun sp j kind dry hj => begun (startKind_shift_clear kind dry hj)⟩
    intro m speed lowers
    have frame : m = { u with
        time := (if g.modes.sense then u.armCaptures else u).time
        seq := { u.seq with phase := some .moving } } :=
      congrArg (State.setSeq { u.seq with phase := some .moving }) (armIf_frame g.modes.sense u)
    have conf : m.conf = s.conf := by rw [frame]; rfl
    have may : m.mayLower = s.mayLower := mayLower_congr (by rw [frame]; rfl) conf (by rw [frame]; rfl)
    have issued := issueHoist_unmarked (s := m) rfl rfl (by rw [frame]; rfl) lead trail v g.modes
    rw [conf, may] at issued
    have phase : (if g.modes.sense then u.armCaptures else u).setPhase .moving = m := by
      unfold State.setPhase; rw [armIf_frame]; exact frame.symm
    have moves : s.startSegment g = m.issueHoist lead trail v g.modes :=
      begun ((startKind_hoist kind).trans (congrArg (State.issueHoist lead trail v g.modes) phase))
    exact ⟨fun l off => moves.trans (issued.1 l off), fun ok => moves.trans (issued.2 ok)⟩
  · intro c
    rw [armCaptures_get]
    exact ⟨arm_armed _, arm_on _, arm_kept _⟩

end Sys2Proof.Machine
end

section
/-! PROOFS. What the Sequencer does next in its segment; the SHIFT's claim, travel and arrival; the end test and the
timers (R97 to R99, R102 to R107; log 16). -/

namespace Sys2Proof.Machine

/-! ## The reaction of the Sequencer -/

theorem advanceOnce_of_sequencer {s t : State} (h : s.advanceSequencer = some t) : s.advanceOnce = some t := by
  unfold State.advanceOnce; rw [h]; rfl

section
variable {s : State} {g : Segment} {i : Nat}

theorem advanceSequencer_segment (activity : s.seq.activity = .segment) (hg : s.segment = some g)
    (hi : s.seq.index = some i) : s.advanceSequencer = s.advanceSegment g i := by
  unfold State.advanceSequencer; rw [activity, hg, hi]

/-- But for a SHIFT that asks again, a hold keeps the segment where it is (R111, R123). -/
theorem advanceSegment_held (holds : s.holds.stack ≠ []) (phase : s.seq.phase ≠ some .waiting) :
    s.advanceSegment g i = none := by
  unfold State.advanceSegment
  split
  · next waiting => exact absurd waiting phase
  · exact if_neg (mt List.isEmpty_iff.mp holds)
  · rfl

theorem advanceSegment_starting (empty : s.holds.stack = []) (phase : s.seq.phase = some .starting) :
    s.advanceSegment g i = some (s.startSegment g) := by
  unfold State.advanceSegment
  rw [phase, empty]
  cases g.kind <;> rfl

theorem advanceSegment_complete (empty : s.holds.stack = []) (phase : s.seq.phase = some .complete) :
    s.advanceSegment g i = some (s.completeSegment g i) := by
  unfold State.advanceSegment
  rw [phase, empty]
  cases g.kind <;> rfl

theorem advanceSegment_moving {lead trail : Int} {v : Nat} (kind : g.kind = .hoist lead trail v)
    (empty : s.holds.stack = []) (phase : s.seq.phase = some .moving) (arrivedLead : s.seq.arrivedLead = true)
    (arrivedTrail : s.seq.arrivedTrail = true) :
    s.advanceSegment g i = some (s.setSeq { s.seq with phase := some .complete }) := by
  unfold State.advanceSegment
  rw [kind, phase, empty]
  exact if_pos ((Bool.and_eq_true _ _).mpr ⟨arrivedLead, arrivedTrail⟩)

theorem advanceSegment_settling {role : Role} {n : Nat} (kind : g.kind = .weigh role n) (empty : s.holds.stack = [])
    (phase : s.seq.phase = some .settling) :
    s.advanceSegment g i = if s.anyMoveInFlight then none
      else some (s.setSeq { s.seq with timer := .running ⟨s.time.clock, n⟩, phase := some .timing }) := by
  unfold State.advanceSegment
  rw [kind, phase, empty]
  rfl

variable {sp : Span}

theorem advanceSegment_waiting (kind : g.kind = .shift sp) (phase : s.seq.phase = some .waiting) :
    s.advanceSegment g i = s.reaskShift sp := by
  unfold State.advanceSegment; rw [kind, phase]

theorem advanceSegment_negotiating (kind : g.kind = .shift sp) (phase : s.seq.phase = some .negotiating) :
    s.advanceSegment g i = none := by
  unfold State.advanceSegment
  rw [kind, phase]
  exact ite_self none

theorem advanceSegment_claimed (kind : g.kind = .shift sp) (empty : s.holds.stack = [])
    (phase : s.seq.phase = some .held) : s.advanceSegment g i = some (s.issueTravel sp) := by
  unfold State.advanceSegment
  rw [kind, phase, empty]
  rfl

theorem advanceSegment_travelling (kind : g.kind = .shift sp) (empty : s.holds.stack = [])
    (phase : s.seq.phase = some .travelling) :
    s.advanceSegment g i = if s.seq.arrivedTravel then some (s.endShift sp) else none := by
  unfold State.advanceSegment
  rw [kind, phase, empty]
  rfl

end

/-! ## SHIFT (R105 to R107) -/

section
variable {s t : State} {sp : Span} {j : Job}

theorem askShift_requesting {n : BitVec 16} (h : s.askClaim .shift sp j.draw j.tag = (t, .requesting n)) :
    s.askShift sp j = (t.updateHead fun k => { k with shiftClaim := some ⟨n, false⟩ }).setPhase .negotiating := by
  unfold State.askShift; rw [h]

theorem askShift_held {n : BitVec 16} (h : s.askClaim .shift sp j.draw j.tag = (t, .held n)) :
    s.askShift sp j =
      ((t.updateHead fun k => { k with shiftClaim := some ⟨n, true⟩ }).setClaimWait none).setPhase .held := by
  unfold State.askShift; rw [h]

/-- A request that is refused is answered with one of R9's six answers. -/
theorem issueRefusal_answers {k : ClaimKind} {n : Nat} {a : IssueAnswer} (h : s.issueRefusal k sp n = some a) :
    a = .notActive ∨ a = .ownLimit ∨ a = .outOfReach ∨ a = .notSynced ∨ a = .blockedCells ∨ a = .blockedBath := by
  unfold State.issueRefusal at h
  split at h
  · exact .inl (Option.some.inj h).symm
  split at h
  · exact .inr (.inl (Option.some.inj h).symm)
  split at h
  · exact .inr (.inr (.inl (Option.some.inj h).symm))
  split at h
  · exact .inr (.inr (.inr (.inl (Option.some.inj h).symm)))
  split at h
  · exact .inr (.inr (.inr (.inr (.inl (Option.some.inj h).symm))))
  split at h
  · exact .inr (.inr (.inr (.inr (.inr (Option.some.inj h).symm))))
  cases h

theorem askShift_refused {a : IssueAnswer} (h : s.issueRefusal .shift sp j.draw = some a) :
    s.askShift sp j = s.setPhase .waiting := by
  unfold State.askShift
  rw [askClaim_of_refused j.tag h]
  rcases issueRefusal_answers h with rfl | rfl | rfl | rfl | rfl | rfl <;> rfl

theorem reaskShift_eq (hj : s.runningJob = some j) :
    s.reaskShift sp = if (s.issueRefusal .shift sp j.draw).isNone then some (s.askShift sp j) else none := by
  unfold State.reaskShift; rw [hj]

theorem OnlyClaims.seq (h : OnlyClaims s t) : t.seq = s.seq := by
  obtain ⟨_, _, _, _, _, rfl⟩ := h
  rfl

/-- What ends a SHIFT changes no more of the Sequencer than its phase. -/
theorem shifted_setPhase (same : t.seq = s.seq) (f : Job → Job) (flags : DipFlags → DipFlags) (p : Phase) :
    ((t.updateHead f).updateFlags flags).setPhase p =
      ((t.updateHead f).updateFlags flags).setSeq { s.seq with phase := some p } := by
  have seq : ((t.updateHead f).updateFlags flags).seq = s.seq := by rw [updateFlags_frame, ← same, ← updateHead_seq f t]
  unfold State.setPhase
  rw [seq]

theorem endShift_unclaimed (hj : s.runningJob = some j) (hc : j.claim = none) :
    s.endShift sp = ((s.updateHead fun k =>
      { k with claim := k.shiftClaim, shiftClaim := none, span := sp }).updateFlags fun f => { f with shifted := true }).setSeq { s.seq with phase := some .complete } := by
  have none : s.runningJob.bind (·.claim) = none := by rw [hj]; exact hc
  unfold State.endShift
  rw [none]
  exact shifted_setPhase rfl _ _ _

theorem endShift_claimed {c : JobClaim} (hj : s.runningJob = some j) (hc : j.claim = some c) :
    s.endShift sp = (((s.endClaim c.number).updateHead fun k =>
      { k with claim := k.shiftClaim, shiftClaim := none, span := sp }).updateFlags
        fun f => { f with shifted := true }).setSeq { s.seq with phase := some .complete } := by
  have old : s.runningJob.bind (·.claim) = some c := by rw [hj]; exact hc
  unfold State.endShift
  rw [old]
  exact shifted_setPhase (endClaim_onlyClaims c.number s).seq _ _ _

end

/-- Settles O50: the answers to the SHIFT's request, then the walk of a SHIFT phase by phase. -/
theorem shiftClaimsTravelsAndArrives : Obligations.ShiftClaimsTravelsAndArrives := by
  refine ⟨fun s sp j => ⟨fun t n => askShift_requesting, fun t n => askShift_held, fun a => askShift_refused⟩,
    fun s g i sp j activity hg hi kind hj => ?_⟩
  have next {o : Option State} (h : s.advanceSegment g i = o) : s.advanceSequencer = o :=
    (advanceSequencer_segment activity hg hi).trans h
  have acts {t : State} (h : s.advanceSegment g i = some t) : s.advanceOnce = some t :=
    advanceOnce_of_sequencer (next h)
  have asks (p : s.seq.phase = some .waiting) := (advanceSegment_waiting (i := i) kind p).trans (reaskShift_eq hj)
  refine ⟨fun p free => acts ((asks p).trans (if_pos (Option.isNone_iff_eq_none.mpr free))),
    fun p refused => next ((asks p).trans (if_neg (mt Option.isNone_iff_eq_none.mp refused))),
    fun p => next (advanceSegment_negotiating kind p), fun holds p => next (advanceSegment_held holds p),
    fun empty p => acts (advanceSegment_starting empty p), fun empty p => acts (advanceSegment_claimed kind empty p),
    fun empty p away => next ((advanceSegment_travelling kind empty p).trans (if_neg (Bool.eq_false_iff.mp away))),
    fun empty p arrived => ?_⟩
  have ends := acts ((advanceSegment_travelling kind empty p).trans (if_pos arrived))
  cases hc : j.claim with
  | none => exact ends.trans (congrArg some (endShift_unclaimed hj hc))
  | some c => exact ends.trans (congrArg some (endShift_claimed hj hc))

/-! ## The end test (R97) -/

theorem endTest_other {index : Nat} {l : Loop} (rest : List Loop) (h : l.endIndex ≠ index) :
    endTest index (l :: rest) = (l :: rest, none) := by
  rw [endTest, if_neg h]

theorem endTest_passes {index : Nat} {l : Loop} (rest : List Loop) (h : l.endIndex = index) (more : 1 < l.remaining) :
    endTest index (l :: rest) = ({ l with remaining := l.remaining - 1 } :: rest, some l.start) := by
  rw [endTest, if_pos h, if_pos more]

theorem endTest_done {index : Nat} {l : Loop} (rest : List Loop) (h : l.endIndex = index) (none : l.remaining ≤ 1) :
    endTest index (l :: rest) = endTest index rest := by
  rw [endTest, if_pos h, if_neg (Nat.not_lt.mpr none)]

section
variable {s : State} {g : Segment} {i : Nat}

theorem completeSegment_named {n : Nat} (h : (endTest i s.seq.loops).2 = some n) :
    s.completeSegment g i = s.setSeq { s.seq with
      activity := .segment, index := some n, phase := some .starting, timer := .stopped
      loops := (endTest i s.seq.loops).1 } := by
  unfold State.completeSegment
  dsimp only
  rw [h]
  rfl

theorem completeSegment_next (h : (endTest i s.seq.loops).2 = none) (more : g.last = false) :
    s.completeSegment g i = s.setSeq { s.seq with
      activity := .segment, index := some (i + 1), phase := some .starting, timer := .stopped
      loops := (endTest i s.seq.loops).1 } := by
  unfold State.completeSegment
  dsimp only
  rw [h]
  exact if_neg (Bool.eq_false_iff.mp more)

theorem completeSegment_last (h : (endTest i s.seq.loops).2 = none) (last : g.last = true) :
    s.completeSegment g i = (s.setSeq { s.seq with loops := (endTest i s.seq.loops).1 }).endProgram := by
  unfold State.completeSegment
  dsimp only
  rw [h]
  exact if_pos last

end

/-! ## The timers (R102 to R104) -/

theorem recordWeight_eq (role : Role) (s : State) :
    s.recordWeight role = match s.drive.lead.report, s.drive.trail.report with
      | some a, some b => s.updateHead fun j => match role with
        | .dry => { j with dry := some (min (a.load + b.load) 4294967295) }
        | .wet => { j with wet := some (min (a.load + b.load) 4294967295) }
      | _, _ => s := by
  unfold State.recordWeight State.weight
  cases s.drive.lead.report with
  | none => rfl
  | some a =>
    cases s.drive.trail.report with
    | none => rfl
    | some b => cases role <;> rfl

theorem recordWeight_seq (role : Role) (s : State) : (s.recordWeight role).seq = s.seq := by
  unfold State.recordWeight
  split
  · rfl
  · split <;> exact updateHead_seq _ s

theorem endLiftWeigh_eq (s : State) :
    s.endLiftWeigh = ((s.recordWeight .wet).setSeq { s.seq with timer := .stopped, phase := none }).closeJob := by
  unfold State.endLiftWeigh
  dsimp only
  rw [recordWeight_seq]

section
variable {s : State} {t : Timer}

theorem remaining_of_due {now : Time} (due : t.due now = true) : t.remaining now = 0 :=
  Nat.sub_eq_zero_of_le (of_decide_eq_true due)

/-- A DRAIN whose timer has run out counts its whole time. -/
theorem bankDrain_of_due {n : Nat} (drain : s.activeKind = some (.drain n)) (timer : s.seq.timer = .running t)
    (due : t.due s.time.clock = true) :
    s.bankDrain = s.setSeq { s.seq with drainTotal := min (s.seq.drainTotal + n) 4294967295 } := by
  unfold State.bankDrain
  rw [drainCounted_running drain timer, remaining_of_due due]
  rfl

theorem exec_dwell_of_due {n : Nat} (dwell : s.activeKind = some (.dwell n)) (timer : s.seq.timer = .running t)
    (due : t.due s.time.clock = true) : exec .dwellTimerExpiry s = .next s.endTiming.finish := by
  show execDwellTimerExpiry s = _
  unfold execDwellTimerExpiry
  rw [dwell, timer]
  dsimp only
  rw [reachExpiry_of_due due]

theorem exec_drain_of_due {n : Nat} (drain : s.activeKind = some (.drain n)) (timer : s.seq.timer = .running t)
    (due : t.due s.time.clock = true) : exec .drainTimerExpiry s = .next s.bankDrain.endTiming.finish := by
  show execDrainTimerExpiry s = _
  unfold execDrainTimerExpiry
  rw [drain, timer]
  dsimp only
  rw [reachExpiry_of_due due]

/-- Only the activity SEGMENT has an active segment. -/
theorem activity_of_activeKind {k : SegmentKind} (h : s.activeKind = some k) : s.seq.activity = .segment := by
  unfold State.activeKind at h
  split at h
  · next segment => exact segment
  · cases h

theorem exec_settle_weigh {role : Role} {n : Nat} (weigh : s.activeKind = some (.weigh role n))
    (timer : s.seq.timer = .running t) (due : t.due s.time.clock = true) :
    exec .settleTimerExpiry s = .next (s.recordWeight role).endTiming.finish := by
  show execSettleTimerExpiry s = _
  unfold execSettleTimerExpiry
  rw [timer, activity_of_activeKind weigh, weigh]
  dsimp only
  rw [reachExpiry_of_due due]
  rfl

theorem exec_settle_lift (activity : s.seq.activity = .weighAfterLift) (timer : s.seq.timer = .running t)
    (due : t.due s.time.clock = true) : exec .settleTimerExpiry s = .next s.endLiftWeigh.finish := by
  show execSettleTimerExpiry s = _
  unfold execSettleTimerExpiry
  rw [timer, activity]
  dsimp only
  rw [reachExpiry_of_due due]

end

/-- Settles O51: the end test, then what the active segment does next, then the timers that run out. -/
theorem segmentsCompleteAndLoopsCount : Obligations.SegmentsCompleteAndLoopsCount := by
  refine ⟨fun index => ⟨rfl, fun l rest => ⟨endTest_other rest, endTest_passes rest, endTest_done rest⟩⟩,
    fun s g i activity hg hi empty => ?_, fun s t timer due => ?_⟩
  · have next {o : Option State} (h : s.advanceSegment g i = o) : s.advanceSequencer = o :=
      (advanceSequencer_segment activity hg hi).trans h
    have acts {t : State} (h : s.advanceSegment g i = some t) : s.advanceOnce = some t :=
      advanceOnce_of_sequencer (next h)
    have completes (p : s.seq.phase = some .complete) {t : State} (h : s.completeSegment g i = t) :
        s.advanceOnce = some t := acts ((advanceSegment_complete empty p).trans (congrArg some h))
    exact ⟨fun p => acts (advanceSegment_starting empty p), fun n p named => completes p (completeSegment_named named),
      fun p none more => completes p (completeSegment_next none more),
      fun p none last => completes p (completeSegment_last none last),
      fun lead trail v kind p arrivedLead arrivedTrail =>
        acts (advanceSegment_moving kind empty p arrivedLead arrivedTrail),
      fun role n kind p still => acts ((advanceSegment_settling kind empty p).trans
        (if_neg (Bool.eq_false_iff.mp still))),
      fun role n kind p moves => next ((advanceSegment_settling kind empty p).trans (if_pos moves))⟩
  · intro ended weighed
    have weight (role : Role) : s.recordWeight role = weighed s role := recordWeight_eq role s
    refine ⟨fun n dwell => exec_dwell_of_due dwell timer due, fun n drain => ?_, fun role n weigh => ?_,
      fun activity => ?_⟩
    · rw [exec_drain_of_due drain timer due, bankDrain_of_due drain timer due]
      rfl
    · rw [exec_settle_weigh weigh timer due, weight]
      rfl
    · rw [exec_settle_lift activity timer due, endLiftWeigh_eq, weight]

end Sys2Proof.Machine
end

section
/-! PROOFS. A lift begun, and how a lift, a program and the weighing after a lift end (R83, R90, R104, R112, R124 to
R126, R204; logs 16, 42). -/

namespace Sys2Proof.Machine

/-! ## What a lift touches -/

/-- A state that differs from another in its Sequencer, its Drive Port and its claim wait timer only. -/
def OnlyMoves (s t : State) : Prop :=
  ∃ seq drive wait, t = { s with seq := seq, drive := drive, jobs := { s.jobs with claimWait := wait } }

theorem OnlyMoves.refl (s : State) : OnlyMoves s s := ⟨_, _, _, rfl⟩

theorem OnlyMoves.trans {s t u : State} (h : OnlyMoves s t) (k : OnlyMoves t u) : OnlyMoves s u := by
  obtain ⟨_, _, _, rfl⟩ := h
  obtain ⟨_, _, _, rfl⟩ := k
  exact ⟨_, _, _, rfl⟩

theorem OnlyMoves.frame {s t : State} (h : OnlyMoves s t) :
    t = { s with seq := t.seq, drive := t.drive, jobs := t.jobs } ∧
      t.jobs = { s.jobs with claimWait := t.jobs.claimWait } := by
  obtain ⟨_, _, _, rfl⟩ := h
  exact ⟨rfl, rfl⟩

theorem OnlyMoves.conf {s t : State} (h : OnlyMoves s t) : t.conf = s.conf := by
  obtain ⟨_, _, _, rfl⟩ := h
  rfl

/-! ## The segment abandoned, and the travel stopped -/

theorem abandonForLift_eq (s : State) :
    s.abandonForLift = (s.setClaimWait s.abandonForLift.jobs.claimWait).setSeq { s.seq with
      timer := .stopped, phase := none, drainTotal := min (s.seq.drainTotal + s.drainCounted) 4294967295 } := by
  unfold State.abandonForLift
  dsimp only
  split <;> rfl

theorem abandonForLift_seq (s : State) : s.abandonForLift.seq = { s.seq with
    timer := .stopped, phase := none, drainTotal := min (s.seq.drainTotal + s.drainCounted) 4294967295 } := by
  rw [abandonForLift_eq]; rfl

theorem abandonForLift_channel (s : State) (ch : Channel) : s.abandonForLift.channel ch = s.channel ch := by
  rw [abandonForLift_eq]; rfl

theorem abandonForLift_shift {s : State} {sp : Span} (h : s.activeKind = some (.shift sp)) :
    s.abandonForLift.jobs.claimWait = none := by
  unfold State.abandonForLift; rw [h]; rfl

theorem abandonForLift_other {s : State} (h : ∀ sp, s.activeKind ≠ some (.shift sp)) :
    s.abandonForLift.jobs.claimWait = s.jobs.claimWait := by
  unfold State.abandonForLift
  dsimp only
  split
  · next sp shift => exact absurd shift (h sp)
  · rfl

theorem stopTravel_frame (s : State) : s.stopTravel = { s with drive := s.stopTravel.drive } := by
  unfold State.stopTravel; split <;> rfl

theorem stopTravel_hoists (s : State) :
    s.stopTravel.channel .lead = s.channel .lead ∧ s.stopTravel.channel .trail = s.channel .trail := by
  unfold State.stopTravel
  split <;> exact ⟨rfl, rfl⟩

theorem stopTravel_travel (s : State) : s.stopTravel.channel .travel =
    if (s.channel .travel).moveInFlight then (s.channel .travel).post .stop else s.channel .travel := by
  unfold State.stopTravel
  split <;> rfl

/-! ## The marks, and the MOVEs asked for before -/

section
variable (keep : Bool) (s : State)

theorem clearUnless_onlyMoves : OnlyMoves s (if keep then s else s.clearMarks) := by
  cases keep with
  | true => exact OnlyMoves.refl s
  | false => exact ⟨_, _, _, rfl⟩

theorem clearUnless_seq : (if keep then s else s.clearMarks).seq = { s.seq with
    arrivedLead := keep && s.seq.arrivedLead, arrivedTrail := keep && s.seq.arrivedTrail
    arrivedTravel := keep && s.seq.arrivedTravel } := by
  cases keep <;> rfl

theorem clearUnless_jobs : (if keep then s else s.clearMarks).jobs = s.jobs := by
  cases keep <;> rfl

theorem clearUnless_channel (ch : Channel) : (if keep then s else s.clearMarks).channel ch =
    if keep then s.channel ch else (s.channel ch).forget := by
  cases keep with
  | true => rfl
  | false => exact forgetMoves_channel _ ch

end

theorem forgetUnless_waiting (keep : Bool) (c : ChannelState) :
    (if keep then c else c.forget).waiting = c.waiting := by
  cases keep <;> rfl

theorem forgetUnless_inFlight {c d : ChannelState} (keep : Bool) (h : c.inFlight = d.inFlight) :
    (if keep then c else c.forget).inFlight = (if keep then d else d.forget).inFlight := by
  cases keep with
  | true => exact h
  | false => exact congrArg (Option.map fun f => { f with isPresent := false }) h

theorem post_inFlight (cmd : DriveCommand) (c : ChannelState) : (c.post cmd).inFlight = c.inFlight := by
  cases cmd <;> rfl

/-! ## The lift's MOVEs (R112) -/

theorem postLiftMoves_frame (s : State) : s.postLiftMoves = { s with drive := s.postLiftMoves.drive } := by
  unfold State.postLiftMoves
  dsimp only
  split <;> split <;> rfl

theorem postLiftMoves_channel (s : State) :
    let lift := DriveCommand.move s.conf.clear s.conf.liftSpeed
    s.postLiftMoves.channel .lead =
      (if s.seq.arrivedLead then s.channel .lead else (s.channel .lead).post lift) ∧
    s.postLiftMoves.channel .trail =
      (if s.seq.arrivedTrail then s.channel .trail else (s.channel .trail).post lift) ∧
    s.postLiftMoves.channel .travel = s.channel .travel := by
  unfold State.postLiftMoves
  dsimp only
  cases s.seq.arrivedLead <;> cases s.seq.arrivedTrail <;> exact ⟨rfl, rfl, rfl⟩

/-! ## The lift begun -/

/-- The state as a lift has set it, before its MOVEs are posted. -/
def State.liftSet (who : LiftFor) (keep : Bool) (s : State) : State :=
  let u := if keep then s.abandonForLift.stopTravel else s.abandonForLift.stopTravel.clearMarks
  u.setSeq { u.seq with activity := .lift, liftFor := some who }

section
variable (who : LiftFor) (keep : Bool) (s : State)

theorem beginLift_eq : s.beginLift who keep = (s.liftSet who keep).postLiftMoves := rfl

theorem liftSet_onlyMoves : OnlyMoves s (s.liftSet who keep) := by
  have abandoned : OnlyMoves s s.abandonForLift := ⟨_, _, _, abandonForLift_eq s⟩
  have stopped : OnlyMoves s.abandonForLift s.abandonForLift.stopTravel := ⟨_, _, _, stopTravel_frame _⟩
  exact ((abandoned.trans stopped).trans (clearUnless_onlyMoves keep _)).trans ⟨_, _, _, rfl⟩

theorem liftSet_seq : (s.liftSet who keep).seq = { s.seq with
    activity := .lift, liftFor := some who, phase := none, timer := .stopped
    arrivedLead := keep && s.seq.arrivedLead, arrivedTrail := keep && s.seq.arrivedTrail
    arrivedTravel := keep && s.seq.arrivedTravel
    drainTotal := min (s.seq.drainTotal + s.drainCounted) 4294967295 } := by
  unfold State.liftSet
  rw [setSeq_seq, clearUnless_seq, stopTravel_frame]
  dsimp only
  rw [abandonForLift_seq]

theorem liftSet_claimWait : (s.liftSet who keep).jobs.claimWait = s.abandonForLift.jobs.claimWait := by
  unfold State.liftSet
  rw [setSeq_jobs, clearUnless_jobs, stopTravel_frame]

theorem liftSet_channel (ch : Channel) : (s.liftSet who keep).channel ch =
    if keep then s.abandonForLift.stopTravel.channel ch else (s.abandonForLift.stopTravel.channel ch).forget :=
  clearUnless_channel keep s.abandonForLift.stopTravel ch

/-- The hoists' channels before the lift's MOVEs are posted. -/
theorem liftSet_hoists :
    (s.liftSet who keep).channel .lead = (if keep then s.channel .lead else (s.channel .lead).forget) ∧
    (s.liftSet who keep).channel .trail = (if keep then s.channel .trail else (s.channel .trail).forget) := by
  obtain ⟨lead, trail⟩ := stopTravel_hoists s.abandonForLift
  rw [liftSet_channel, liftSet_channel, lead, trail, abandonForLift_channel, abandonForLift_channel]
  exact ⟨rfl, rfl⟩

theorem beginLift_onlyMoves : OnlyMoves s (s.beginLift who keep) :=
  (liftSet_onlyMoves who keep s).trans ⟨_, _, _, postLiftMoves_frame _⟩

theorem beginLift_seq : (s.beginLift who keep).seq = (s.liftSet who keep).seq := by
  rw [beginLift_eq, postLiftMoves_frame]

theorem beginLift_claimWait : (s.beginLift who keep).jobs.claimWait = s.abandonForLift.jobs.claimWait := by
  rw [beginLift_eq, postLiftMoves_frame, ← liftSet_claimWait who keep]

/-- The hoists' channels: the lift's MOVE is posted on each whose mark is not kept. -/
theorem beginLift_hoists :
    let carried := fun ch => if keep then s.channel ch else (s.channel ch).forget
    let lift := DriveCommand.move s.conf.clear s.conf.liftSpeed
    (s.beginLift who keep).channel .lead =
      (if keep && s.seq.arrivedLead then carried .lead else (carried .lead).post lift) ∧
    (s.beginLift who keep).channel .trail =
      (if keep && s.seq.arrivedTrail then carried .trail else (carried .trail).post lift) := by
  obtain ⟨lead, trail, -⟩ := postLiftMoves_channel (s.liftSet who keep)
  obtain ⟨setLead, setTrail⟩ := liftSet_hoists who keep s
  rw [(liftSet_onlyMoves who keep s).conf, liftSet_seq] at lead trail
  rw [setLead] at lead
  rw [setTrail] at trail
  exact ⟨lead, trail⟩

/-- The travel's channel: a STOP takes the place of what waits while a MOVE is in flight. -/
theorem beginLift_travel :
    let c := if (s.channel .travel).moveInFlight then (s.channel .travel).post .stop else s.channel .travel
    (s.beginLift who keep).channel .travel = if keep then c else c.forget := by
  obtain ⟨-, -, travel⟩ := postLiftMoves_channel (s.liftSet who keep)
  rw [beginLift_eq, travel, liftSet_channel, stopTravel_travel, abandonForLift_channel]

/-- A lift leaves every command in flight there, present only where the lift keeps it so. -/
theorem beginLift_inFlight (ch : Channel) : ((s.beginLift who keep).channel ch).inFlight =
    (if keep then s.channel ch else (s.channel ch).forget).inFlight := by
  have posted (b : Bool) (cmd : DriveCommand) (c : ChannelState) :
      (if b then c else c.post cmd).inFlight = c.inFlight := by
    split
    · rfl
    · exact post_inFlight cmd c
  obtain ⟨lead, trail⟩ := beginLift_hoists who keep s
  cases ch with
  | lead => rw [lead, posted]
  | trail => rw [trail, posted]
  | travel =>
    rw [beginLift_travel]
    refine forgetUnless_inFlight keep ?_
    split
    · exact post_inFlight .stop _
    · rfl

end

/-- What waits on a hoist's channel after the lift's MOVE is posted there, or is not. -/
theorem liftPosted_waiting (keep arrived : Bool) (target : Int) (v : Nat) (c : ChannelState) :
    (if arrived then (if keep then c else c.forget)
      else (if keep then c else c.forget).post (.move target v)).waiting =
      if arrived then c.waiting else some (.move target v) := by
  cases arrived with
  | true => exact forgetUnless_waiting keep c
  | false => rfl

/-! ## The end of a lift, for its requester (R83, R90, R126, R204) -/

section
variable {s : State}

theorem frozen_false (h : ∀ e rest, s.holds.stack = e :: rest → e.cls.isFreeze = false) : s.frozen = false := by
  unfold State.frozen
  split
  · next e rest top => exact h e rest top
  · rfl

theorem advanceSequencer_lift (activity : s.seq.activity = .lift) (lead : s.seq.arrivedLead = true)
    (trail : s.seq.arrivedTrail = true) (free : s.frozen = false) : s.advanceSequencer = some s.endLift := by
  unfold State.advanceSequencer
  rw [activity]
  unfold State.advanceLift
  rw [lead, trail, free]
  rfl

theorem endLift_hold (h : s.seq.liftFor = some .hold) : s.endLift = s.endHoldLift := by
  unfold State.endLift; rw [h]

theorem endLift_cancel (h : s.seq.liftFor = some .cancel) : s.endLift = s.weighOrClose := by
  unfold State.endLift; rw [h]

theorem endLift_endLift (h : s.seq.liftFor = some .endLift) : s.endLift = s.closeJob := by
  unfold State.endLift; rw [h]

theorem endLift_host (h : s.seq.liftFor = some .host) : s.endLift = s.endHostLift := by
  unfold State.endLift; rw [h]

theorem endHoldLift_nil (h : s.holds.stack = []) : s.endHoldLift = s.weighOrClose := by
  unfold State.endHoldLift; rw [h]

/-- The entry of a LIFT class removed: a PAUSE that it uncovers goes too when a cancel waits. -/
theorem endHoldLift_top {e : HoldEntry} {rest : List HoldEntry} (h : s.holds.stack = e :: rest)
    (lifts : e.cls.isFreeze = false) :
    let t := (((s.setSeq { s.seq with liftFor := none }).setHolds { s.holds with stack := rest }).raise
      .holdChange).enterPending
    s.endHoldLift = (if t.runningJob.any (·.cancelPending) then t.discardPause else t).weighOrClose := by
  unfold State.endHoldLift
  rw [h]
  exact if_neg (Bool.eq_false_iff.mp lifts)

/-! ## The weighing, the close, the program's end -/

theorem weighOrClose_weighs {j : Job} (hj : s.runningJob = some j) (dry : j.dry ≠ none) :
    s.weighOrClose = s.beginWeighing :=
  if_pos (by rw [hj]; exact Option.isSome_iff_ne_none.mpr dry)

theorem weighOrClose_closes (h : ∀ j, s.runningJob = some j → j.dry = none) : s.weighOrClose = s.closeJob := by
  refine if_neg fun weighed => ?_
  rw [Option.any_eq_true] at weighed
  obtain ⟨j, hj, dry⟩ := weighed
  rw [h j hj] at dry
  cases dry

theorem discardPause_other (h : ∀ e rest, s.holds.stack = e :: rest → e.cls ≠ .pause) : s.discardPause = s := by
  unfold State.discardPause
  split
  · next e rest top => exact if_neg (h e rest top)
  · rfl

theorem endProgram_clear (h : s.bothClear = true) : s.endProgram = s.closeJob := if_pos h

theorem endProgram_lifts (h : s.bothClear = false) :
    s.endProgram = (s.updateFlags fun f => { f with endLift := true }).beginLift .endLift false :=
  if_neg (Bool.eq_false_iff.mp h)

theorem anyMoveInFlight_iff : s.anyMoveInFlight = true ↔ (s.channel .lead).moveInFlight = true ∨
    (s.channel .trail).moveInFlight = true ∨ (s.channel .travel).moveInFlight = true := by
  unfold State.anyMoveInFlight
  rw [Bool.or_eq_true, Bool.or_eq_true, or_assoc]
  rfl

theorem remaining_now (now : Time) (n : Nat) : (⟨now, n⟩ : Timer).remaining now = n := by
  simp [Timer.remaining, Timer.elapsed]

theorem suspendTimer_running {t : Timer} (h : s.seq.timer = .running t) :
    s.suspendTimer = s.setSeq { s.seq with timer := .suspended (t.remaining s.time.clock) } := by
  unfold State.suspendTimer; rw [h]; rfl

/-- A timer that starts under a FREEZE is suspended with its whole length. -/
theorem startTiming_suspendTimer (n : Nat) :
    (s.startTiming n).suspendTimer = s.setSeq { s.seq with timer := .suspended n, phase := some .timing } := by
  have suspended := suspendTimer_running (s := s.startTiming n) (t := ⟨s.time.clock, n⟩) rfl
  rw [show (s.startTiming n).time.clock = s.time.clock from rfl, remaining_now] at suspended
  exact suspended

theorem advanceSequencer_weighing (activity : s.seq.activity = .weighAfterLift) :
    s.advanceSequencer = s.advanceWeighing := by
  unfold State.advanceSequencer; rw [activity]

theorem weighingStarts_iff : (s.seq.phase == some .settling && !s.anyMoveInFlight) = true ↔
    s.seq.phase = some .settling ∧ ¬s.anyMoveInFlight = true := by
  rw [Bool.and_eq_true, beq_iff_eq, Bool.not_eq_true', Bool.not_eq_true]

theorem advanceWeighing_starts (phase : s.seq.phase = some .settling) (still : ¬s.anyMoveInFlight = true) :
    s.advanceWeighing =
      some (if s.frozen then (s.startTiming weighSettle).suspendTimer else s.startTiming weighSettle) :=
  if_pos (weighingStarts_iff.mpr ⟨phase, still⟩)

theorem advanceWeighing_waits (h : s.anyMoveInFlight = true ∨ s.seq.phase ≠ some .settling) :
    s.advanceWeighing = none :=
  if_neg fun starts => h.elim (weighingStarts_iff.mp starts).2 fun no => no (weighingStarts_iff.mp starts).1

end

/-- Settles O41: a lift begun, a lift ended by its requester, what follows it, and the weighing's timer. -/
theorem liftsAndWeighingsEndByTheirRequester : Obligations.LiftsAndWeighingsEndByTheirRequester := by
  refine ⟨fun s who keep => ?_, fun s activity lead trail top => ?_, fun s => ⟨fun j => weighOrClose_weighs,
    weighOrClose_closes, fun e rest => discardPause_pause, discardPause_other, endProgram_clear, endProgram_lifts⟩,
    fun s activity => ?_⟩
  · intro t lift
    have seq : t.seq = _ := (beginLift_seq who keep s).trans (liftSet_seq who keep s)
    have wait : t.jobs.claimWait = s.abandonForLift.jobs.claimWait := beginLift_claimWait who keep s
    obtain ⟨frame, jobs⟩ := (beginLift_onlyMoves who keep s).frame
    obtain ⟨lead, trail⟩ := beginLift_hoists who keep s
    have travel := beginLift_travel who keep s
    refine ⟨frame, congrArg Sequencer.activity seq, congrArg Sequencer.liftFor seq, congrArg Sequencer.phase seq,
      congrArg Sequencer.timer seq, congrArg Sequencer.arrivedLead seq, congrArg Sequencer.arrivedTrail seq,
      congrArg Sequencer.arrivedTravel seq, by rw [seq], congrArg Sequencer.drainTotal seq, jobs,
      fun ⟨sp, shift⟩ => wait.trans (abandonForLift_shift shift), fun other => wait.trans (abandonForLift_other other),
      (congrArg ChannelState.waiting lead).trans (liftPosted_waiting _ _ _ _ _),
      (congrArg ChannelState.waiting trail).trans (liftPosted_waiting _ _ _ _ _), fun moves => ?_, fun still => ?_,
      beginLift_inFlight who keep s⟩
    · rw [if_pos moves] at travel
      exact (congrArg ChannelState.waiting travel).trans (forgetUnless_waiting keep _)
    · rw [if_neg (Bool.eq_false_iff.mp still)] at travel
      exact travel
  · intro ends
    have ended {t : State} (h : s.endLift = t) : ends t :=
      advanceOnce_of_sequencer ((advanceSequencer_lift activity lead trail (frozen_false top)).trans (congrArg some h))
    refine ⟨fun e rest who stack => ?_, fun who empty => ended ((endLift_hold who).trans (endHoldLift_nil empty)),
      fun who => ended (endLift_cancel who), fun who => ended (endLift_endLift who),
      fun who => ended (endLift_host who)⟩
    have removed := (endLift_hold who).trans (endHoldLift_top stack (top e rest stack))
    exact ⟨fun no => ended (removed.trans (congrArg State.weighOrClose (if_neg (Bool.eq_false_iff.mp no)))),
      fun cancels => ended (removed.trans (congrArg State.weighOrClose (if_pos cancels)))⟩
  · intro moves starts
    have any : s.anyMoveInFlight = true ↔ moves := anyMoveInFlight_iff
    have weighing := advanceSequencer_weighing activity
    have begun (phase : s.seq.phase = some .settling) (still : ¬moves) :=
      advanceOnce_of_sequencer (weighing.trans (advanceWeighing_starts phase (mt any.mp still)))
    refine ⟨fun waits => weighing.trans (advanceWeighing_waits (waits.imp any.mpr id)), fun phase still frozen => ?_,
      fun phase still free => ?_⟩
    · refine (begun phase still).trans (congrArg some ?_)
      exact (if_pos frozen).trans (startTiming_suspendTimer 2000)
    · exact (begun phase still).trans (congrArg some (if_neg (Bool.eq_false_iff.mp free)))

end Sys2Proof.Machine
end

section
/-! PROOFS. A hold cause by its class: what a latch answers, the entry test, FREEZE and LIFT as a class enters, the DIP
record's note of it, and the context it saves (R83, R113, R115, R121 to R124, R130; logs 16, 17, 49). -/

namespace Sys2Proof.Machine

/-! ## Classes -/

theorem isFreeze_iff (c : HoldClass) : c.isFreeze = true ↔ c ≠ .program ∧ c ≠ .bath := by
  cases c <;> decide

theorem isFreeze_false_iff (c : HoldClass) : c.isFreeze = false ↔ c = .program ∨ c = .bath := by
  cases c <;> decide

theorem abortReason_lift {c : HoldClass} (h : c = .program ∨ c = .bath) :
    c.abortReason = if c = .bath then .bath else .program := by
  rcases h with rfl | rfl <;> rfl

theorem outranks_iff (c d : HoldClass) : c.outranks d = true ↔ c.code < d.code := decide_eq_true_iff

/-! ## The entry test (R121) -/

theorem highestPending_mem : ∀ {l : List PendingHold} {p : PendingHold}, highestPending l = some p → p ∈ l
  | [], _, h => by cases h
  | q :: rest, p, h => by
    unfold highestPending at h
    split at h
    · next r hr =>
      have later : r ∈ q :: rest := List.mem_cons_of_mem q (highestPending_mem hr)
      split at h <;> cases h
      · exact later
      · exact List.mem_cons_self
    · cases h; exact List.mem_cons_self

/-- The class that outranks all others of the pending set is its highest. -/
theorem highestPending_of_least {p : PendingHold} {r : List PendingHold} :
    ∀ {l : List PendingHold}, (∀ q ∈ l ++ r, p.cls.code < q.cls.code) → highestPending (l ++ p :: r) = some p
  | [], least => by
    rw [List.nil_append, highestPending]
    split
    · next q hq =>
      have below : p.cls.code < q.cls.code := least q (highestPending_mem hq)
      exact if_neg (mt (outranks_iff _ _).mp (by omega))
    · rfl
  | x :: l, least => by
    have rest : highestPending (l ++ p :: r) = some p :=
      highestPending_of_least fun q hq => least q (List.mem_cons_of_mem x hq)
    have top : p.cls.code < x.cls.code := least x List.mem_cons_self
    rw [List.cons_append]
    unfold highestPending
    rw [rest]
    exact if_pos ((outranks_iff _ _).mpr top)

theorem enterPending_nil {s : State} (h : s.holds.pending = []) : s.enterPending = s := by
  unfold State.enterPending; rw [h]; rfl

section
variable {s : State} {p : PendingHold} {l r : List PendingHold}

theorem enterPending_enters (pending : s.holds.pending = l ++ p :: r) (least : ∀ q ∈ l ++ r, p.cls.code < q.cls.code)
    (above : ∀ e rest, s.holds.stack = e :: rest → p.cls.code < e.cls.code) : s.enterPending = s.enterHold p := by
  unfold State.enterPending
  rw [pending, highestPending_of_least least]
  dsimp only
  split
  · rfl
  · next e rest top => exact if_pos ((outranks_iff _ _).mpr (above e rest top))

theorem enterPending_waits {e : HoldEntry} {rest : List HoldEntry} (pending : s.holds.pending = l ++ p :: r)
    (least : ∀ q ∈ l ++ r, p.cls.code < q.cls.code) (top : s.holds.stack = e :: rest)
    (below : e.cls.code ≤ p.cls.code) : s.enterPending = s := by
  unfold State.enterPending
  rw [pending, highestPending_of_least least, top]
  exact if_neg (mt (outranks_iff _ _).mp (by omega))

end

/-! ## The DIP record's note of an entry (R122) -/

theorem updateRecord_frame (f : DipRecord → DipRecord) (s : State) :
    s.updateRecord f = { s with log := (s.updateRecord f).log } := by
  unfold State.updateRecord
  split <;> rfl

theorem updateRecord_holds (f : DipRecord → DipRecord) (s : State) : (s.updateRecord f).holds = s.holds := by
  rw [updateRecord_frame]

theorem updateRecord_log_congr {s t : State} (h : t.log = s.log) (f : DipRecord → DipRecord) :
    (t.updateRecord f).log = (s.updateRecord f).log := by
  unfold State.updateRecord
  rw [h]
  split
  · exact congrArg (LogStore.setBuffer _ _) h
  · exact h

theorem recordHold_unwritten {s : State} (c : HoldClass) (h : s.runningJob = none ∨ 4 ≤ s.holds.recorded) :
    s.recordHold c = s := by
  refine if_neg fun writes => ?_
  rw [Bool.and_eq_true, decide_eq_true_iff, Option.isSome_iff_ne_none] at writes
  rcases h with none | full
  · exact writes.1 none
  · exact absurd writes.2 (by omega)

theorem recordHold_written {s : State} (c : HoldClass) (job : s.runningJob ≠ none) (room : s.holds.recorded < 4) :
    s.recordHold c = { s.updateRecord (fun d => { d with holds := d.holds ++ [⟨c, s.time.clock⟩] }) with
      holds := { s.holds with recorded := s.holds.recorded + 1 } } := by
  refine (if_pos ?_).trans ?_
  · rw [Option.isSome_iff_ne_none.mpr job, decide_eq_true room]; rfl
  · dsimp only
    rw [updateRecord_holds]
    rfl

/-- A class is written into the DIP record, and counted there. -/
theorem recordHold_frame (c : HoldClass) (s : State) : s.recordHold c = { s with
    holds := { s.holds with recorded := (s.recordHold c).holds.recorded }, log := (s.recordHold c).log } := by
  by_cases h : s.runningJob = none ∨ 4 ≤ s.holds.recorded
  · rw [recordHold_unwritten c h]
  · obtain ⟨job, room⟩ := not_or.mp h
    rw [recordHold_written c job (Nat.lt_of_not_le room), updateRecord_frame]

/-- What is written rests on the head job, the count, the Log Store and the clock. -/
theorem recordHold_congr {s t : State} (c : HoldClass) (jobs : t.jobs = s.jobs)
    (recorded : t.holds.recorded = s.holds.recorded) (log : t.log = s.log) (time : t.time = s.time) :
    (t.recordHold c).log = (s.recordHold c).log ∧
      (t.recordHold c).holds.recorded = (s.recordHold c).holds.recorded := by
  have job : t.runningJob = s.runningJob := by unfold State.runningJob; rw [jobs]
  by_cases h : s.runningJob = none ∨ 4 ≤ s.holds.recorded
  · rw [recordHold_unwritten c h, recordHold_unwritten c (by rw [job, recorded]; exact h)]
    exact ⟨log, recorded⟩
  · obtain ⟨running, room⟩ := not_or.mp h
    rw [recordHold_written c running (Nat.lt_of_not_le room),
      recordHold_written c (by rw [job]; exact running) (by rw [recorded]; exact Nat.lt_of_not_le room), time]
    exact ⟨updateRecord_log_congr log _, congrArg (· + 1) recorded⟩

/-! ## A class on the stack (R113, R121) -/

/-- The flags with HOLD_CHANGE among them. -/
def State.holdChanged (s : State) : ControllerPort := { s.port with flags := { s.port.flags with holdChange := true } }

/-- The state with a class on the stack, before its action. -/
def State.holdEntered (p : PendingHold) (s : State) : State :=
  { s with
    holds :=
      { pending := s.holds.pending.filter fun q => q.cls != p.cls
        stack := ⟨p.cls, s.time.clock, p.cause, s.context⟩ :: s.holds.stack
        mask := s.holds.mask
        recorded := (s.recordHold p.cls).holds.recorded }
    log := (s.recordHold p.cls).log
    port := s.holdChanged }

theorem pushHold_recordHold (p : PendingHold) (s : State) : (s.pushHold p).recordHold p.cls = s.holdEntered p := by
  obtain ⟨log, recorded⟩ := recordHold_congr (s := s) (t := s.pushHold p) p.cls rfl rfl rfl rfl
  rw [recordHold_frame, log, recorded]
  rfl

theorem enterHold_freezes {p : PendingHold} (s : State) (h : p.cls.isFreeze = true) :
    s.enterHold p = (s.holdEntered p).freeze := by
  rw [← pushHold_recordHold]; exact if_pos h

theorem enterHold_lifts {p : PendingHold} (s : State) (h : p.cls.isFreeze = false) :
    s.enterHold p = (s.holdEntered p).liftAction p.cls := by
  rw [← pushHold_recordHold]; exact if_neg (Bool.eq_false_iff.mp h)

/-! ## FREEZE (R123, R130, R204) -/

theorem suspendTimer_timer (s : State) : s.suspendTimer.seq.timer = match s.seq.timer with
    | .running u => .suspended (u.length - (s.time.clock - u.start).toNat)
    | x => x := by
  unfold State.suspendTimer
  cases h : s.seq.timer with
  | running u => rfl
  | stopped => exact h
  | suspended r => exact h

theorem suspendTimer_frame (s : State) :
    s.suspendTimer = s.setSeq { s.seq with timer := s.suspendTimer.seq.timer } := by
  unfold State.suspendTimer; split <;> rfl

theorem suspendTimer_seq (s : State) :
    s.suspendTimer.seq = { s.seq with timer := s.suspendTimer.seq.timer } := by
  conv => lhs; rw [suspendTimer_frame]
  rfl

/-- What a FREEZE leaves of the Sequencer rests on the Sequencer and the clock. -/
theorem suspendTimer_congr {s t : State} (seq : t.seq = s.seq) (time : t.time = s.time) :
    t.suspendTimer.seq = s.suspendTimer.seq := by
  have timer : t.suspendTimer.seq.timer = s.suspendTimer.seq.timer := by
    rw [suspendTimer_timer, suspendTimer_timer, seq, time]
  rw [suspendTimer_seq t, suspendTimer_seq s, timer, seq]

theorem postStops_suspendTimer (s : State) : s.postStops.suspendTimer = s.postStops.setSeq s.suspendTimer.seq := by
  have seq : s.postStops.suspendTimer.seq = s.suspendTimer.seq := suspendTimer_congr rfl rfl
  rw [← seq, suspendTimer_frame]
  rfl

theorem freeze_still {s : State} (h : s.seq.hostLift ≠ .lifting) :
    s.freeze = s.postStops.setSeq s.suspendTimer.seq := by
  unfold State.freeze
  rw [postStops_suspendTimer]
  exact if_neg (by rw [setSeq_seq, suspendTimer_frame]; exact h)

theorem freeze_hostLift {s : State} (h : s.seq.hostLift = .lifting) : s.freeze = s.postStops.setSeq
    { s.suspendTimer.seq with hostLift := .ended, activity := .idle, liftFor := none } := by
  unfold State.freeze
  rw [postStops_suspendTimer]
  exact if_pos (by rw [setSeq_seq, suspendTimer_frame]; exact h)

theorem freeze_frame (s : State) : s.freeze = { s with drive := s.postStops.drive, seq := s.freeze.seq } := by
  by_cases h : s.seq.hostLift = .lifting
  · rw [freeze_hostLift h]; rfl
  · rw [freeze_still h]; rfl

theorem freeze_channel (s : State) (ch : Channel) :
    s.freeze.channel ch = { s.channel ch with waiting := some .stop } := by
  rw [freeze_frame]; cases ch <;> rfl

/-- A FREEZE class entered: STOP on all channels, the timer suspended, a host lift ended. -/
theorem enterHold_freeze {p : PendingHold} (s : State) (h : p.cls.isFreeze = true) :
    let t := s.enterHold p
    let entered : List HoldEntry := ⟨p.cls, s.time.clock, p.cause, s.context⟩ :: s.holds.stack
    t = { s with holds := t.holds, drive := t.drive, seq := t.seq, log := (s.recordHold p.cls).log,
                 port := s.holdChanged } ∧
    t.holds = ⟨s.holds.pending.filter fun q => q.cls != p.cls, entered, s.holds.mask,
      (s.recordHold p.cls).holds.recorded⟩ ∧
    (∀ ch, t.channel ch = { s.channel ch with waiting := some .stop }) ∧
    (s.seq.hostLift ≠ .lifting → t.seq = { s.seq with timer := s.suspendTimer.seq.timer }) ∧
    (s.seq.hostLift = .lifting → t.seq.hostLift = .ended ∧ t.seq.activity = .idle) := by
  intro t entered
  have ht : t = (s.holdEntered p).freeze := enterHold_freezes s h
  rw [ht]
  refine ⟨?_, ?_, freeze_channel _, fun no => ?_, fun lifting => ?_⟩
  · rw [freeze_frame]; rfl
  · rw [freeze_frame]; rfl
  · rw [freeze_still (s := s.holdEntered p) no, setSeq_seq, ← suspendTimer_seq]; exact suspendTimer_congr rfl rfl
  · rw [freeze_hostLift (s := s.holdEntered p) lifting]; exact ⟨rfl, rfl⟩

/-! ## LIFT (R83, R90, R124) -/

theorem runningJob_some {s : State} {j : Job} (h : s.runningJob = some j) :
    ∃ rest, s.jobs.list = j :: rest ∧ j.state = .running := by
  unfold State.runningJob at h
  split at h
  · next k rest list =>
    split at h
    · next running => cases h; exact ⟨rest, list, running⟩
    · cases h
  · cases h

theorem setAbort_frame (r : AbortReason) (s : State) : s.setAbort r = { s with jobs := (s.setAbort r).jobs } :=
  updateHead_frame _ s

theorem noteAbortedBath_frame (c : HoldClass) (s : State) :
    s.noteAbortedBath c = { s with log := (s.noteAbortedBath c).log } := by
  unfold State.noteAbortedBath
  split
  · exact updateFlags_frame _ s
  · rfl

theorem noteAbortedBath_log {s : State} {j : Job} (c : HoldClass) (h : s.runningJob = some j) :
    (s.noteAbortedBath c).log = (if c = .bath ∧ j.cancelLift = true then
      s.updateFlags fun f => { f with abortedBath := true } else s).log := by
  unfold State.noteAbortedBath
  rw [h]
  simp

theorem dropLiftPending_holds (s : State) : s.dropLiftPending.holds =
    { s.holds with pending := s.holds.pending.filter fun p => p.cls.isFreeze } := by
  unfold State.dropLiftPending
  split
  · rfl
  · next freezes =>
    have all : s.holds.pending.filter (fun p => p.cls.isFreeze) = s.holds.pending := by
      rw [List.filter_eq_self]; simpa using freezes
    rw [all]

/-- With HOLD_CHANGE raised already, a LIFT raises it no more. -/
theorem dropLiftPending_port {s : State} (h : s.port.flags.holdChange = true) : s.dropLiftPending.port = s.port := by
  unfold State.dropLiftPending
  split
  · rw [raise_port, setHolds_port, FlagSet.raise, ← h]
  · rfl

/-- The state of a LIFT class entered, before its lift is begun. -/
def State.liftEntered (p : PendingHold) (s : State) : State :=
  { s with
    holds :=
      { pending := s.holds.pending.filter fun q => q.cls.isFreeze
        stack := (⟨p.cls, s.time.clock, p.cause, s.context⟩ :: s.holds.stack).map fun e =>
          { e with context := { e.context with isVoid := true } }
        mask := s.holds.mask
        recorded := (s.recordHold p.cls).holds.recorded }
    jobs := ((s.holdEntered p).setAbort p.cls.abortReason).jobs
    log := (((s.holdEntered p).setAbort p.cls.abortReason).noteAbortedBath p.cls).log
    port := s.holdChanged }

theorem enterHold_liftEntered {p : PendingHold} (s : State) (h : p.cls.isFreeze = false) :
    s.enterHold p = (s.liftEntered p).beginLift .hold (s.seq.activity == .lift) := by
  have lifts (q : PendingHold) : (q.cls.isFreeze && q.cls != p.cls) = q.cls.isFreeze := by
    cases hq : q.cls.isFreeze with
    | false => rfl
    | true => rw [Bool.true_and, bne_iff_ne]; rintro same; rw [same, h] at hq; cases hq
  have kept : (s.holds.pending.filter fun q => q.cls != p.cls).filter (fun q => q.cls.isFreeze) =
      s.holds.pending.filter fun q => q.cls.isFreeze := by
    rw [List.filter_filter]; exact congrArg (List.filter · s.holds.pending) (funext lifts)
  have noted : (((s.holdEntered p).setAbort p.cls.abortReason).noteAbortedBath p.cls) = { s.holdEntered p with
      jobs := (s.liftEntered p).jobs, log := (s.liftEntered p).log } :=
    (noteAbortedBath_frame _ _).trans
      (congrArg (fun u : State => { u with log := (s.liftEntered p).log }) (setAbort_frame _ _))
  have setup : (((s.holdEntered p).setAbort p.cls.abortReason).noteAbortedBath p.cls).dropLiftPending.voidContexts =
      s.liftEntered p := by
    unfold State.voidContexts
    rw [dropLiftPending_frame, dropLiftPending_holds, dropLiftPending_port (by rw [noted]; rfl), noted]
    dsimp only [State.holdEntered]
    rw [kept]
    rfl
  rw [enterHold_lifts s h]
  unfold State.liftAction State.beginHoldLift
  rw [setup]
  rfl

/-- What a LIFT class that enters touches, with or without a job. -/
theorem enterHold_lift_frame {p : PendingHold} (s : State) (h : p.cls.isFreeze = false) :
    let t := s.enterHold p
    let u := s.liftEntered p
    t = { s with holds := t.holds, drive := t.drive, seq := t.seq, jobs := t.jobs, log := t.log, port := t.port } ∧
      t.holds = u.holds ∧ t.log = u.log ∧ t.port = s.holdChanged ∧ t.jobs.list = u.jobs.list := by
  obtain ⟨seq, drive, wait, begun⟩ := beginLift_onlyMoves .hold (s.seq.activity == .lift) (s.liftEntered p)
  rw [← enterHold_liftEntered s h] at begun
  intro t u
  rw [show t = _ from begun]
  exact ⟨rfl, rfl, rfl, rfl, rfl⟩

section
variable {s : State} {p : PendingHold} {j : Job} {rest : List Job}

theorem liftEntered_list (head : s.jobs.list = j :: rest) : (s.liftEntered p).jobs.list =
    { j with abort := some (j.abort.getD p.cls.abortReason) } :: rest :=
  congrArg (·.jobs.list) (updateHead_cons (s := s.holdEntered p) head _)

theorem liftEntered_log (head : s.jobs.list = j :: rest) (running : j.state = .running) :
    (s.liftEntered p).log = (if p.cls = .bath ∧ j.cancelLift = true then
      (s.recordHold p.cls).updateFlags fun f => { f with abortedBath := true } else s.recordHold p.cls).log := by
  have aborted : ((s.holdEntered p).setAbort p.cls.abortReason).runningJob =
      some { j with abort := some (j.abort.getD p.cls.abortReason) } :=
    runningJob_of_head (liftEntered_list head) running
  have log : ((s.holdEntered p).setAbort p.cls.abortReason).log = (s.recordHold p.cls).log := by
    rw [setAbort_frame]; rfl
  refine (noteAbortedBath_log p.cls aborted).trans ?_
  split
  · exact updateFlags_log_congr log _
  · exact log

end

/-- A LIFT class entered: the lift begun, or taken over with its marks kept. -/
theorem enterHold_lift {p : PendingHold} (s : State) (h : p.cls.isFreeze = false) :
    let t := s.enterHold p
    let lift : Option DriveCommand := some (.move s.conf.clear s.conf.liftSpeed)
    t.seq.activity = .lift ∧ t.seq.liftFor = some .hold ∧ t.seq.phase = none ∧ t.seq.timer = .stopped ∧
    (s.seq.activity = .lift → t.seq.arrivedLead = s.seq.arrivedLead ∧ t.seq.arrivedTrail = s.seq.arrivedTrail ∧
      (t.channel .lead).waiting = (if s.seq.arrivedLead then (s.channel .lead).waiting else lift) ∧
      (t.channel .trail).waiting = (if s.seq.arrivedTrail then (s.channel .trail).waiting else lift)) ∧
    (s.seq.activity ≠ .lift → t.seq.arrivedLead = false ∧ t.seq.arrivedTrail = false ∧
      (t.channel .lead).waiting = lift ∧ (t.channel .trail).waiting = lift) ∧
    ((s.channel .travel).moveInFlight = true → (t.channel .travel).waiting = some .stop) ∧
    ((s.channel .travel).moveInFlight = false → t.channel .travel =
      if s.seq.activity = .lift then s.channel .travel else (s.channel .travel).forget) := by
  intro t lift
  have ht : t = (s.liftEntered p).beginLift .hold (s.seq.activity == .lift) := enterHold_liftEntered s h
  have seq := (beginLift_seq .hold (s.seq.activity == .lift) (s.liftEntered p)).trans (liftSet_seq _ _ _)
  obtain ⟨lead, trail⟩ := beginLift_hoists .hold (s.seq.activity == .lift) (s.liftEntered p)
  have travel := beginLift_travel .hold (s.seq.activity == .lift) (s.liftEntered p)
  rw [← ht] at seq lead trail travel
  have leadWaits := (congrArg ChannelState.waiting lead).trans (liftPosted_waiting _ _ _ _ _)
  have trailWaits := (congrArg ChannelState.waiting trail).trans (liftPosted_waiting _ _ _ _ _)
  refine ⟨congrArg Sequencer.activity seq, congrArg Sequencer.liftFor seq, congrArg Sequencer.phase seq,
    congrArg Sequencer.timer seq, fun takes => ?_, fun other => ?_, fun moves => ?_, fun still => ?_⟩
  · have keep : (s.seq.activity == .lift) = true := beq_iff_eq.mpr takes
    rw [keep] at seq leadWaits trailWaits
    exact ⟨(congrArg Sequencer.arrivedLead seq).trans (Bool.true_and _),
      (congrArg Sequencer.arrivedTrail seq).trans (Bool.true_and _), leadWaits, trailWaits⟩
  · have keep : (s.seq.activity == .lift) = false := beq_eq_false_iff_ne.mpr other
    rw [keep] at seq leadWaits trailWaits
    exact ⟨congrArg Sequencer.arrivedLead seq, congrArg Sequencer.arrivedTrail seq, leadWaits, trailWaits⟩
  · have posted := (congrArg ChannelState.waiting travel).trans (forgetUnless_waiting _ _)
    exact posted.trans (congrArg ChannelState.waiting (if_pos moves))
  · rw [travel]
    change (if _ then (if (s.channel .travel).moveInFlight then _ else s.channel .travel) else
      ChannelState.forget (if (s.channel .travel).moveInFlight then _ else s.channel .travel)) = _
    rw [still]
    simp only [Bool.false_eq_true, if_false, beq_iff_eq]

/-- What the entry of any class leaves: HOLD_CHANGE, the mask, the count of the DIP record. -/
theorem enterHold_notes (p : PendingHold) (s : State) :
    (s.enterHold p).port = s.holdChanged ∧ (s.enterHold p).holds.mask = s.holds.mask ∧
      (s.enterHold p).holds.recorded = (s.recordHold p.cls).holds.recorded := by
  cases h : p.cls.isFreeze with
  | true =>
    obtain ⟨frame, holds, -⟩ := enterHold_freeze s h
    exact ⟨congrArg State.port frame, by rw [holds], by rw [holds]⟩
  | false =>
    obtain ⟨-, holds, -, port, -⟩ := enterHold_lift_frame s h
    exact ⟨port, by rw [holds]; rfl, by rw [holds]; rfl⟩

/-! ## Latching (R115) -/

/-- The state with a cause in the pending set. -/
def State.causePending (c : HoldClass) (k : HoldCause) (s : State) : State :=
  { s with
    holds := { s.holds with pending := s.holds.pending ++ [⟨c, k, s.time.clock⟩] }
    port := s.holdChanged }

section
variable {s : State} {c : HoldClass}

theorem latch_known (k : HoldCause) (h : s.standing c = true ∨ s.isPending c = true) : s.latch c k = s := by
  refine if_pos ?_
  rw [Bool.or_assoc, Bool.or_eq_true, Bool.or_eq_true]
  exact .inr h

/-- PROGRAM and BATH find no running job, or one that has its abort reason. -/
theorem discardsCause_true (lift : c = .program ∨ c = .bath)
    (h : s.runningJob = none ∨ ∃ j, s.runningJob = some j ∧ j.abort ≠ none) : s.discardsCause c = true := by
  unfold State.discardsCause
  rw [(isFreeze_false_iff c).mpr lift]
  rcases h with none | ⟨j, hj, abort⟩
  · rw [none]; rfl
  · rw [hj]; exact Option.isSome_iff_ne_none.mpr abort

theorem discardsCause_false (h : c = .program ∨ c = .bath → ∃ j, s.runningJob = some j ∧ j.abort = none) :
    s.discardsCause c = false := by
  unfold State.discardsCause
  cases freezes : c.isFreeze with
  | true => rfl
  | false =>
    obtain ⟨j, hj, abort⟩ := h ((isFreeze_false_iff c).mp freezes)
    rw [hj]
    change j.abort.isSome = false
    rw [abort]
    rfl

theorem latch_discarded (k : HoldCause) (h : s.discardsCause c = true) : s.latch c k = s := by
  refine if_pos ?_
  rw [h]
  rfl

theorem latch_taken (k : HoldCause) (takes : s.discardsCause c = false) (standing : s.standing c = false)
    (pending : s.isPending c = false) : s.latch c k = (s.causePending c k).enterPending.testCancel := by
  refine if_neg ?_
  rw [takes, standing, pending]
  exact Bool.false_ne_true

/-- A class enters as if its cause had never waited. -/
theorem enterHold_causePending (k : HoldCause) :
    (s.causePending c k).enterHold ⟨c, k, s.time.clock⟩ = s.enterHold ⟨c, k, s.time.clock⟩ := by
  have alone : (s.holds.pending ++ [(⟨c, k, s.time.clock⟩ : PendingHold)]).filter (fun q => q.cls != c) =
      s.holds.pending.filter fun q => q.cls != c := by
    rw [List.filter_append]; simp
  have entered : (s.causePending c k).holdEntered ⟨c, k, s.time.clock⟩ = s.holdEntered ⟨c, k, s.time.clock⟩ := by
    obtain ⟨log, recorded⟩ := recordHold_congr (s := s) (t := s.causePending c k) c rfl rfl rfl rfl
    unfold State.holdEntered
    dsimp only
    rw [log, recorded]
    dsimp only [State.causePending]
    rw [alone]
    rfl
  cases freezes : c.isFreeze with
  | true => rw [enterHold_freezes _ freezes, enterHold_freezes _ freezes, entered]
  | false => rw [enterHold_lifts _ freezes, enterHold_lifts _ freezes, entered]

theorem isPending_nil (h : s.holds.pending = []) : s.isPending c = false := by
  unfold State.isPending; rw [h]; rfl

theorem causePending_only (k : HoldCause) (h : s.holds.pending = []) :
    (s.causePending c k).holds.pending = [] ++ ⟨c, k, s.time.clock⟩ :: [] :=
  congrArg (· ++ [(⟨c, k, s.time.clock⟩ : PendingHold)]) h

/-- With nothing pending, a cause that outranks the top enters at once. -/
theorem latch_enters (k : HoldCause) (takes : s.discardsCause c = false) (standing : s.standing c = false)
    (pending : s.holds.pending = []) (above : ∀ e rest, s.holds.stack = e :: rest → c.code < e.cls.code) :
    s.latch c k = (s.enterHold ⟨c, k, s.time.clock⟩).testCancel := by
  rw [latch_taken k takes standing (isPending_nil pending),
    enterPending_enters (causePending_only k pending) (by simp) above, enterHold_causePending k]

theorem no_cancel (h : s.runningJob.any (·.cancelPending) = false) : ¬s.cancelReady = true := by
  unfold State.cancelReady
  rw [h]
  exact Bool.false_ne_true

/-- With nothing pending and no cancel waiting, a cause that does not outrank the top waits. -/
theorem latch_waits (k : HoldCause) (takes : s.discardsCause c = false) (standing : s.standing c = false)
    (pending : s.holds.pending = []) (quiet : s.runningJob.any (·.cancelPending) = false)
    (below : ¬∀ e rest, s.holds.stack = e :: rest → c.code < e.cls.code) : s.latch c k = s.causePending c k := by
  have beneath : ∃ e rest, s.holds.stack = e :: rest ∧ e.cls.code ≤ c.code := by
    cases top : s.holds.stack with
    | nil => exact absurd (fun e rest stack => by rw [top] at stack; cases stack) below
    | cons e rest =>
      refine ⟨e, rest, rfl, Nat.le_of_not_lt fun less => below fun f tail stack => ?_⟩
      rw [top] at stack
      cases stack
      exact less
  obtain ⟨e, rest, top, le⟩ := beneath
  rw [latch_taken k takes standing (isPending_nil pending),
    enterPending_waits (causePending_only k pending) (by simp) top le]
  refine testCancel_neither (no_cancel (s := s.causePending c k) quiet) fun paused => ?_
  obtain ⟨-, -, f, one, pause⟩ := (endLiftPaused_iff _).mp paused
  have same : s.holds.stack = [f] := one
  rw [top] at same
  cases same
  have pauses : c = .pause := by
    rw [pause] at le
    revert le
    cases c <;> simp [HoldClass.code]
  rw [pauses] at standing
  unfold State.standing at standing
  rw [top, List.any_cons, pause] at standing
  cases standing

/-- No PAUSE alone over an end lift: a FREEZE class that enters stays on the stack. -/
theorem latch_freezes (k : HoldCause) (freezes : c.isFreeze = true) (standing : s.standing c = false)
    (pending : s.holds.pending = []) (quiet : s.runningJob.any (·.cancelPending) = false)
    (stays : c = .pause → ¬(s.seq.activity = .lift ∧ s.seq.liftFor = some .endLift))
    (above : ∀ e rest, s.holds.stack = e :: rest → c.code < e.cls.code) :
    s.latch c k = s.enterHold ⟨c, k, s.time.clock⟩ := by
  have takes : s.discardsCause c = false := by unfold State.discardsCause; rw [freezes]; rfl
  obtain ⟨frame, holds, -, still, lifting⟩ := enterHold_freeze (p := ⟨c, k, s.time.clock⟩) s freezes
  have jobs : (s.enterHold ⟨c, k, s.time.clock⟩).runningJob = s.runningJob := by rw [frame]; rfl
  rw [latch_enters k takes standing pending above]
  refine testCancel_neither (no_cancel (by rw [jobs]; exact quiet)) fun paused => ?_
  obtain ⟨activity, liftFor, f, one, pause⟩ := (endLiftPaused_iff _).mp paused
  rw [holds] at one
  obtain ⟨rfl, -⟩ := List.cons.inj one
  by_cases host : s.seq.hostLift = .lifting
  · rw [(lifting host).2] at activity
    cases activity
  · rw [still host] at activity liftFor
    exact stays pause ⟨activity, liftFor⟩

/-- A lift issued again where a STOP waits on every channel. -/
theorem postLiftMoves_stopped {b : State} (waits : ∀ ch, (b.channel ch).waiting = some .stop) :
    let lift : Option DriveCommand := some (.move b.conf.clear b.conf.liftSpeed)
    (b.postLiftMoves.channel .lead).waiting = (if b.seq.arrivedLead then some .stop else lift) ∧
    (b.postLiftMoves.channel .trail).waiting = (if b.seq.arrivedTrail then some .stop else lift) ∧
    (b.postLiftMoves.channel .travel).waiting = some .stop := by
  obtain ⟨lead, trail, travel⟩ := postLiftMoves_channel b
  rw [lead, trail, travel]
  refine ⟨?_, ?_, waits .travel⟩
  · cases b.seq.arrivedLead with
    | false => rfl
    | true => exact waits .lead
  · cases b.seq.arrivedTrail with
    | false => rfl
    | true => exact waits .trail

/-- A PAUSE that enters alone over an end lift is discarded at once, and the lift issued again. -/
theorem latch_pause_endLift (k : HoldCause) (activity : s.seq.activity = .lift)
    (liftFor : s.seq.liftFor = some .endLift) (stack : s.holds.stack = []) (pending : s.holds.pending = [])
    (host : s.seq.hostLift ≠ .lifting) (quiet : s.runningJob.any (·.cancelPending) = false) :
    ∃ b : State, s.latch .pause k = b.postLiftMoves ∧
      b = { s with holds := b.holds, drive := b.drive, seq := { s.seq with timer := s.suspendTimer.seq.timer },
                   log := (s.recordHold .pause).log, port := s.holdChanged } ∧
      b.holds.stack = [] ∧ b.holds.pending = [] ∧ ∀ ch, (b.channel ch).waiting = some .stop := by
  obtain ⟨frame, holds, channels, still, -⟩ := enterHold_freeze (p := ⟨.pause, k, s.time.clock⟩) s rfl
  have jobs := congrArg State.runningJob frame
  have latched := latch_enters (s := s) (c := .pause) k rfl (by unfold State.standing; rw [stack]; rfl) pending
    (by rw [stack]; simp)
  generalize s.enterHold ⟨.pause, k, s.time.clock⟩ = t at *
  rw [still host] at frame
  have one : t.holds.stack = [⟨.pause, s.time.clock, k, s.context⟩] := by rw [holds, ← stack]
  have paused : t.endLiftPaused = true := (endLiftPaused_iff t).mpr
    ⟨by rw [still host]; exact activity, by rw [still host]; exact liftFor, _, one, rfl⟩
  have freed := testCancel_endLift (no_cancel (by rw [jobs]; exact quiet)) paused
  refine ⟨t.discardPause, latched.trans freed, ?_⟩
  rw [discardPause_pause one rfl]
  exact ⟨congrArg (fun u => (u.setHolds { t.holds with stack := [] }).raise .holdChange) frame, rfl,
    by rw [raise_holds, setHolds_holds, holds, pending]; rfl, fun ch => congrArg ChannelState.waiting (channels ch)⟩

/-- A LIFT class that enters while no cancel waits. -/
theorem latch_lifts {j : Job} (k : HoldCause) (lifts : c = .program ∨ c = .bath) (hj : s.runningJob = some j)
    (abort : j.abort = none) (standing : s.standing c = false) (pending : s.holds.pending = [])
    (quiet : j.cancelPending = false) (above : ∀ e rest, s.holds.stack = e :: rest → c.code < e.cls.code) :
    s.latch c k = s.enterHold ⟨c, k, s.time.clock⟩ := by
  have lift : c.isFreeze = false := (isFreeze_false_iff c).mpr lifts
  obtain ⟨rest, head, running⟩ := runningJob_some hj
  obtain ⟨-, -, -, -, kept⟩ := enterHold_lift_frame (p := ⟨c, k, s.time.clock⟩) s lift
  obtain ⟨-, liftFor, -⟩ := enterHold_lift (p := ⟨c, k, s.time.clock⟩) s lift
  have list := kept.trans (liftEntered_list head)
  rw [latch_enters k (discardsCause_false fun _ => ⟨j, hj, abort⟩) standing pending above]
  refine testCancel_neither (no_cancel ?_) fun paused => ?_
  · rw [runningJob_of_head list running]; exact quiet
  · obtain ⟨-, other, -⟩ := (endLiftPaused_iff _).mp paused
    rw [liftFor] at other
    cases other

end

/-! ## The context saved (R113) -/

theorem context_segment {s : State} (h : s.seq.activity = .segment) :
    s.context = ⟨.segment, s.seq.index, s.seq.timer.left s.time.clock, s.seq.loops, false⟩ := if_pos h

theorem context_other {s : State} (h : s.seq.activity ≠ .segment) :
    s.context = ⟨s.seq.activity, none, none, [], false⟩ := if_neg h

/-- Settles O38: the cause by its class, the entry test, the entry of a class, the DIP record, the saved context. -/
theorem holdCauseEntersByItsClass : Obligations.HoldCauseEntersByItsClass := by
  refine ⟨fun s c k => ?_, fun s => ⟨enterPending_nil, fun l p r pending least =>
      ⟨enterPending_enters pending least, fun e rest top => enterPending_waits pending least top⟩⟩, fun s p => ?_,
    fun s c => ⟨recordHold_unwritten c, recordHold_written c⟩,
    fun s => ⟨fun segment => ?_, context_other⟩⟩
  · intro now flagged outranks entered endLift
    refine ⟨latch_known k, fun lift none => latch_discarded k (discardsCause_true lift none),
      fun standing pending takes => ?_, fun pending standing quiet cls above => ?_,
      fun pause activity stack pending host quiet => ?_,
      fun j pending standing hj quiet abort cls activity above => ?_⟩
    · have discards := discardsCause_false takes
      exact ⟨latch_taken k discards standing pending,
        fun empty quiet below => latch_waits k discards standing empty quiet below⟩
    · intro t
      have freezes : c.isFreeze = true := by
        rcases cls with rfl | rfl | rfl | ⟨rfl, -⟩ <;> rfl
      have stays (pause : c = .pause) : ¬endLift := by
        subst pause; simpa using cls
      have ht : t = _ := latch_freezes k freezes standing pending quiet stays above
      obtain ⟨frame, holds, channels, still, lifting⟩ := enterHold_freeze (p := ⟨c, k, s.time.clock⟩) s freezes
      rw [← ht] at frame holds channels still lifting
      refine ⟨?_, by rw [holds], by rw [holds, pending]; rfl, by rw [holds], channels, fun host => ?_, lifting,
        by rw [frame], by rw [holds]⟩
      · have log : t.log = (s.recordHold c).log := by rw [frame]
        rw [log]; exact frame
      · exact (still host).trans (congrArg (fun timer => { s.seq with timer := timer }) (suspendTimer_timer s))
    · subst pause
      intro t lift
      obtain ⟨b, ht, frame, empty, none, waits⟩ :=
        latch_pause_endLift k activity.1 activity.2 stack pending host quiet
      have issued : t = { b with drive := t.drive } := (show t = _ from ht) ▸ postLiftMoves_frame b
      obtain ⟨lead, trail, travel⟩ := postLiftMoves_stopped waits
      rw [← ht, show b.conf = s.conf by rw [frame]; rfl] at lead trail
      rw [← ht] at travel
      rw [frame] at lead trail
      refine ⟨by rw [issued]; exact empty, by rw [issued]; exact none, by rw [issued, frame]; rfl, ?_, ?_, lead, trail,
        travel, by rw [issued, frame], by rw [issued, frame]⟩
      · rw [issued, frame]; exact activity.1
      · rw [issued, frame]; exact activity.2
    · intro t
      have lifts : c.isFreeze = false := (isFreeze_false_iff c).mpr cls
      obtain ⟨rest, head, running⟩ := runningJob_some hj
      have ht : t = _ := latch_lifts k cls hj abort standing pending quiet above
      obtain ⟨frame, holds, -, port, kept⟩ := enterHold_lift_frame (p := ⟨c, k, now⟩) s lifts
      obtain ⟨lift, who, -, timer, -, fresh, moves, still⟩ := enterHold_lift (p := ⟨c, k, now⟩) s lifts
      rw [← ht] at frame holds port kept lift who timer fresh moves still
      obtain ⟨-, -, lead, trail⟩ := fresh activity
      have list : t.jobs.list = _ := kept.trans (liftEntered_list head)
      refine ⟨by rw [holds]; rfl, by rw [holds, State.liftEntered, pending]; rfl, port, ?_, lift, who,
        timer, lead, trail, moves, fun no => (still no).trans (if_neg activity), by rw [frame], by rw [frame],
        by rw [frame], by rw [frame], by rw [frame]⟩
      rw [list, abort, ← abortReason_lift cls]
      rfl
  · intro t now entered lift recorded
    obtain ⟨port, mask, count⟩ := enterHold_notes p s
    refine ⟨port, mask, count, fun program bath => ?_, fun j rest cls head running => ?_⟩
    · have freezes : p.cls.isFreeze = true := (isFreeze_iff p.cls).mpr ⟨program, bath⟩
      obtain ⟨frame, holds, channels, still, lifting⟩ := enterHold_freeze s freezes
      refine ⟨?_, by rw [holds], by rw [holds], channels, fun host => ?_, lifting⟩
      · exact frame.trans (by rw [port])
      · exact (still host).trans (congrArg (fun timer => { s.seq with timer := timer }) (suspendTimer_timer s))
    · have lifts : p.cls.isFreeze = false := (isFreeze_false_iff p.cls).mpr cls
      obtain ⟨frame, holds, log, -, kept⟩ := enterHold_lift_frame s lifts
      obtain ⟨activity, who, phase, timer, taken, fresh, moves, still⟩ := enterHold_lift s lifts
      have list : t.jobs.list = _ := kept.trans (liftEntered_list head)
      have freezes (q : PendingHold) : q.cls.isFreeze = (q.cls != .program && q.cls != .bath) := by
        rw [Bool.eq_iff_iff, isFreeze_iff]; simp
      refine ⟨frame, by rw [holds]; rfl, ?_, ?_, log.trans (liftEntered_log head running), activity, who, phase, timer,
        taken, fresh, moves, still⟩
      · rw [holds]; exact congrArg (List.filter · s.holds.pending) (funext freezes)
      · rw [list, ← abortReason_lift cls]
  · refine (context_segment segment).trans ?_
    unfold SegTimer.left
    cases s.seq.timer <;> rfl

end Sys2Proof.Machine
end

section
/-! PROOFS. PAUSE, RESUME and LIFT_CLEAR (R90, R120, R125, R127, R128, R131, R203; logs 16, 17, 41). -/

namespace Sys2Proof.Machine

/-! ## RESUME (R127, R128) -/

section
variable {s : State} {e : HoldEntry} {rest : List HoldEntry}

theorem hostResume_none (h : s.holds.stack = []) : s.hostResume = s.refuse .noHold := by
  unfold State.hostResume; rw [h]

theorem hostResume_refused {r : RefusedReason} (top : s.holds.stack = e :: rest) (why : s.resumeRefusal e = some r) :
    s.hostResume = s.refuse r := by
  unfold State.hostResume; rw [top]; dsimp only; rw [why]

/-- The answer names the class removed and the top after the reactions of the removal (log 41). -/
theorem hostResume_removed {t : State} (top : s.holds.stack = e :: rest) (free : s.resumeRefusal e = none)
    (removed : s.resume e rest = t) :
    s.hostResume = t.settle.ok (.resumed e.cls (t.settle.holds.stack.head?.map (·.cls))) := by
  unfold State.hostResume; rw [top]; dsimp only; rw [free, removed]; rfl

theorem resumeRefusal_lift (h : e.cls = .program ∨ e.cls = .bath) : s.resumeRefusal e = some .lifting := by
  unfold State.resumeRefusal; rcases h with h | h <;> rw [h]

theorem resumeRefusal_stop (h : e.cls = .stop) :
    s.resumeRefusal e = if s.pins.stop then some .stopAsserted else none := by
  unfold State.resumeRefusal; rw [h]

theorem resumeRefusal_drive (h : e.cls = .drive) : s.resumeRefusal e =
    if s.drive.lead.ready = true ∧ s.drive.trail.ready = true ∧ s.drive.travel.ready = true then none
    else some .driveNotReady := by
  unfold State.resumeRefusal; rw [h]; simp only [Bool.and_eq_true, and_assoc]

theorem resumeRefusal_other (h : e.cls = .conflict ∨ e.cls = .pause) : s.resumeRefusal e = none := by
  unfold State.resumeRefusal; rcases h with h | h <;> rw [h]

end

theorem masksFast_freeze {c : HoldClass} (h : c.isFreeze = true) : c.masksFast = (c != .pause) := by
  revert h; cases c <;> decide

/-- The top entry removed, with its mask added. -/
def State.holdRemoved (e : HoldEntry) (rest : List HoldEntry) (s : State) : State :=
  (s.setHolds { s.holds with
    stack := rest
    mask := { s.holds.mask with fast := s.holds.mask.fast || e.cls != .pause } }).raise .holdChange

section
variable {s v : State} {e : HoldEntry} {rest : List HoldEntry} (freezes : e.cls.isFreeze = true)
  (entered : (s.holdRemoved e rest).enterPending = v)
include freezes entered

theorem resume_eq : s.resume e rest =
    if v.cancelReady then v.carryOutCancel else if v.endLiftPaused then v.freeEndLift else v.goOn rest e.context := by
  unfold State.resume
  rw [Modes.addMask, masksFast_freeze freezes, ← entered]
  rfl

theorem resume_cancels (ready : v.cancelReady = true) : s.resume e rest = v.carryOutCancel :=
  (resume_eq freezes entered).trans (if_pos ready)

theorem resume_frees (no : v.cancelReady = false) (paused : v.endLiftPaused = true) :
    s.resume e rest = v.freeEndLift := by
  rw [resume_eq freezes entered, no, paused]; rfl

theorem resume_goesOn (no : v.cancelReady = false) (free : v.endLiftPaused = false) :
    s.resume e rest = v.goOn rest e.context := by
  rw [resume_eq freezes entered, no, free]; rfl

end

theorem goOn_empty {s : State} (before : List HoldEntry) (c : SavedContext) (h : s.holds.stack = []) :
    s.goOn before c = s.restoreContext c := by
  unfold State.goOn; rw [h]

theorem goOn_frozen {s : State} {before : List HoldEntry} {d : HoldEntry} {below : List HoldEntry} (c : SavedContext)
    (top : s.holds.stack = d :: below) (h : d.cls.isFreeze = true ∨ s.holds.stack ≠ before) : s.goOn before c = s := by
  unfold State.goOn
  rw [top] at h ⊢
  exact if_pos (by rwa [Bool.or_eq_true, bne_iff_ne])

theorem goOn_lift {s : State} {before : List HoldEntry} {d : HoldEntry} {below : List HoldEntry} (c : SavedContext)
    (top : s.holds.stack = d :: below) (lifts : d.cls.isFreeze = false) (same : s.holds.stack = before) :
    s.goOn before c = s.postLiftMoves := by
  unfold State.goOn
  rw [top] at same ⊢
  exact if_neg (by rw [Bool.or_eq_true, bne_iff_ne, lifts]; simpa using same)

/-! ## LIFT_CLEAR (R203) -/

theorem activeJob_none_iff (s : State) :
    s.activeJob = none ↔ ∀ j rest, s.jobs.list = j :: rest → j.state = .queued := by
  unfold State.activeJob
  cases h : s.jobs.list with
  | nil => simp
  | cons j rest =>
    constructor
    · intro none k tail same
      cases same
      exact Decidable.byContradiction fun active => by cases (if_neg active).symm.trans none
    · intro queued
      exact if_pos (queued j rest rfl)

theorem mayLift_iff (s : State) : (s.joined || s.roster.state == .isolated) = true ↔
    s.roster.state = .listening ∨ s.roster.state = .active ∨ s.roster.state = .isolated := by
  rw [Bool.or_eq_true, joined_iff, beq_iff_eq, or_assoc]

section
variable {s : State}

theorem liftClear_off (off : ¬(s.joined || s.roster.state == .isolated) = true) : s.liftClear = s.notActive :=
  if_pos (by rw [Bool.not_eq_true', Bool.eq_false_iff]; exact off)

variable (on : (s.joined || s.roster.state == .isolated) = true)
include on

theorem liftClear_unconfigured (none : s.roster.config = none) : s.liftClear = s.refuse .noConfig := by
  unfold State.liftClear; rw [on, none]; rfl

variable (config : s.roster.config ≠ none)
include config

/-- The tests after the configuration's. -/
theorem liftClear_configured : s.liftClear =
    if s.activeJob.isSome then s.busy
    else if !s.holds.stack.isEmpty then s.refuse .holdStanding
    else if s.seq.hostLift = .lifting then s.busy
    else s.beginHostLift.ok .empty := by
  obtain ⟨cfg, some⟩ := Option.ne_none_iff_exists'.mp config
  unfold State.liftClear
  rw [on, some]
  rfl

theorem liftClear_working (active : s.activeJob ≠ none) : s.liftClear = s.busy :=
  (liftClear_configured on config).trans (if_pos (Option.isSome_iff_ne_none.mpr active))

variable (idle : s.activeJob = none)
include idle

theorem liftClear_held (holds : s.holds.stack ≠ []) : s.liftClear = s.refuse .holdStanding := by
  have stands : (!s.holds.stack.isEmpty) = true := by rw [Bool.not_eq_true', List.isEmpty_eq_false_iff]; exact holds
  rw [liftClear_configured on config, idle, stands]
  rfl

variable (empty : s.holds.stack = [])
include empty

theorem liftClear_lifting (host : s.seq.hostLift = .lifting) : s.liftClear = s.busy := by
  rw [liftClear_configured on config, idle, empty]
  exact if_pos host

theorem liftClear_lifts (host : s.seq.hostLift ≠ .lifting) : s.liftClear = s.beginHostLift.ok .empty := by
  rw [liftClear_configured on config, idle, empty]
  exact if_neg host

end

theorem beginHostLift_eq (s : State) :
    let lift := DriveCommand.move s.conf.clear s.conf.liftSpeed
    s.beginHostLift = (((s.setSeq { s.seq with
      arrivedLead := false, arrivedTrail := false, arrivedTravel := false
      activity := .lift, liftFor := some .host, hostLift := .lifting }).forgetMoves).postCommand .lead
        lift).postCommand .trail lift := rfl

/-! ## The requests -/

section
variable {s t : State} (h : s.Listens)
include h

theorem exec_pause_of_listens (work : ((s.working .pause).latch .pause .host).ok
    (.disposition (s.working .pause).pauseDisposition) = t) : exec .pause s = .next t.finish := by
  rw [← work]
  exact request_of_listens h .pause fun u => (u.latch .pause .host).ok (.disposition u.pauseDisposition)

theorem exec_resume_of_listens (work : (s.working .resume).hostResume = t) : exec .resume s = .next t.finish := by
  rw [← work]
  exact request_of_listens h .resume State.hostResume

theorem exec_liftClear_of_listens (work : (s.working .liftClear).liftClear = t) :
    exec .liftClear s = .next t.finish := by
  rw [← work]
  exact request_of_listens h .liftClear State.liftClear

end

/-- Settles O39: PAUSE, RESUME by the top entry and what its removal uncovers, LIFT_CLEAR test by test. -/
theorem pauseResumeAndLiftClearAct : Obligations.PauseResumeAndLiftClearAct := by
  refine ⟨⟨fun s h => exec_pause_of_listens h rfl, fun s h empty => exec_resume_of_listens h (hostResume_none empty),
    fun s e rest h top => ?_⟩, fun s h => ?_⟩
  · intro w ready
    have refused {r : RefusedReason} (why : w.resumeRefusal e = some r) : exec .resume s = .next (w.refuse r).finish :=
      exec_resume_of_listens h (hostResume_refused (s := w) top why)
    refine ⟨fun lifts => refused (resumeRefusal_lift lifts),
      fun stop asserted => refused ((resumeRefusal_stop stop).trans (if_pos asserted)),
      fun drive notReady => refused ((resumeRefusal_drive drive).trans (if_neg notReady)), fun free => ?_⟩
    intro u answered v
    have taken : w.resumeRefusal e = none := by
      rcases free with ⟨stop, released⟩ | ⟨drive, all⟩ | other
      · exact (resumeRefusal_stop stop).trans (if_neg (Bool.eq_false_iff.mp released))
      · exact (resumeRefusal_drive drive).trans (if_pos all)
      · exact resumeRefusal_other other
    have freezes : e.cls.isFreeze = true := by
      rcases free with ⟨cls, -⟩ | ⟨cls, -⟩ | cls | cls <;> rw [cls] <;> rfl
    have removed {t : State} (ht : w.resume e rest = t) : answered t :=
      exec_resume_of_listens h (hostResume_removed (s := w) top taken ht)
    have entered : (w.holdRemoved e rest).enterPending = v := rfl
    have goesOn (no : v.cancelReady = false) (alone : v.endLiftPaused = false) :
        w.resume e rest = v.goOn rest e.context :=
      resume_goesOn freezes entered no alone
    exact ⟨fun cancels => removed (resume_cancels freezes entered cancels),
      fun no paused => removed (resume_frees freezes entered no paused),
      fun no alone empty => removed ((goesOn no alone).trans (goOn_empty rest _ empty)),
      fun d below no alone stack keeps => removed ((goesOn no alone).trans (goOn_frozen _ stack keeps)),
      fun d below no alone stack lifts same => removed ((goesOn no alone).trans (goOn_lift _ stack lifts same)),
      fun none => enterPending_nil none⟩
  · intro w on free
    have mayLift : (w.joined || w.roster.state == .isolated) = true ↔ on := mayLift_iff w
    have idle : w.activeJob = none ↔ free := activeJob_none_iff w
    refine ⟨fun off => exec_liftClear_of_listens h (liftClear_off (mt mayLift.mp off)),
      fun is none => exec_liftClear_of_listens h (liftClear_unconfigured (mayLift.mpr is) none),
      fun is config active => exec_liftClear_of_listens h
        (liftClear_working (mayLift.mpr is) config (mt idle.mp active)),
      fun is config none holds => exec_liftClear_of_listens h
        (liftClear_held (mayLift.mpr is) config (idle.mpr none) holds),
      fun is config none empty host => exec_liftClear_of_listens h
        (liftClear_lifting (mayLift.mpr is) config (idle.mpr none) empty host),
      fun is config none empty host => ?_⟩
    intro lift
    have lifts := liftClear_lifts (mayLift.mpr is) config (idle.mpr none) (s := w) empty host
    rw [beginHostLift_eq] at lifts
    exact exec_liftClear_of_listens h lifts

end Sys2Proof.Machine
end

section
/-! PROOFS. The plant stop: each cause of STOP, and the line break that two of them drive (R116, R117, R162, R163, R191;
log 9). -/

namespace Sys2Proof.Machine

section
variable {s : State}

theorem exec_stopInput_of_edge (released : s.pins.stop = false) (on : s.roster.state ≠ .offline) :
    exec .stopInputAsserted s = .next (((s.setStopPin true).latch .stop .stopInput).driveBreak).finish := by
  change execStopInputAsserted s = _
  unfold execStopInputAsserted
  rw [released, (isOn_iff s).mpr on]
  rfl

/-- A level that was asserted before, or that an OFFLINE station does not look at, is no assertion. -/
theorem exec_stopInput_of_level (h : s.pins.stop = true ∨ s.roster.state = .offline) :
    exec .stopInputAsserted s = .next (s.setStopPin true) := by
  refine if_pos ?_
  rw [Bool.or_eq_true, Bool.not_eq_true', isOn_false_iff]
  exact h

theorem exec_allStop_of_listens (h : s.Listens) : exec .allStop s =
    .next (((s.working .allStop).latch .stop .allStop).driveBreak.ok .empty).finish :=
  request_of_listens h .allStop fun t => (t.latch .stop .allStop).driveBreak.ok .empty

/-- A break that begins on the line takes it, and latches STOP. -/
theorem exec_lineBreak_begins (on : s.roster.state ≠ .offline) (before : s.link.inBreak = false) :
    exec .lineBreakDetected s =
      .next (({ s.lineTaken with link := { s.lineTaken.link with inBreak := true } } : State).latch .stop
        .lineBreak).finish := by
  change execLineBreakDetected s = _
  unfold execLineBreakDetected
  rw [before, (isOn_iff s).mpr on]
  rfl

/-- A break that goes on is not detected again. -/
theorem exec_lineBreak_ignored (h : s.roster.state = .offline ∨ s.link.inBreak = true) :
    exec .lineBreakDetected s = .next s := by
  refine if_pos ?_
  rw [Bool.or_eq_true, Bool.not_eq_true', isOn_false_iff]
  exact h

end

/-- Settles O13: the break driven, the causes of STOP one by one, and the levels that change alone. -/
theorem plantStopLatchesAndDrivesTheBreak : Obligations.PlantStopLatchesAndDrivesTheBreak :=
  ⟨fun _ => rfl, fun _ => exec_stopInput_of_edge, fun _ => exec_stopInput_of_level, fun _ => exec_allStop_of_listens,
    fun _ => exec_lineBreak_begins, fun _ => exec_lineBreak_ignored, fun _ => rfl, fun _ _ => rfl⟩

end Sys2Proof.Machine
end

section
/-! PROOFS. The machine as a whole: every command answers and leaves the queue alone, and an empty queue counts a
millisecond (R143; log 1). -/

namespace Sys2Proof.Machine

theorem step_of_empty {s : State} (h : s.pending = []) : step s = .next s.tick := by
  unfold step; rw [h]

theorem tick_offline {s : State} (h : s.roster.state = .offline) : s.tick = s :=
  if_neg (Bool.eq_false_iff.mp ((isOn_false_iff s).mpr h))

theorem tick_on {s : State} (h : s.roster.state ≠ .offline) : s.tick = s.setClock (s.time.clock + 1) :=
  if_pos ((isOn_iff s).mpr h)

/-- Settles O2: what every command keeps holds the queue, and a step on an empty queue is a tick. -/
theorem everyStepAnswers : Obligations.EveryStepAnswers := by
  refine ⟨fun c s => ?_, fun s empty => ⟨fun off => ?_, fun on => ?_⟩⟩
  · obtain ⟨t, answers, keeps⟩ := exec_runs c s
    exact ⟨t, answers, keeps.pending⟩
  · rw [step_of_empty empty, tick_offline off]
  · rw [step_of_empty empty, tick_on on]
    rfl

end Sys2Proof.Machine
end

section
/-! PROOFS. The contact lines: which changes are edges, what an edge leaves in a capture, and the watch of an active
DRAIN (R103, R110, R144 to R146; log 28). -/

namespace Sys2Proof.Machine

/-! ## The capture of a hook -/

@[simp] theorem Timebase.get_set_same (t : Timebase) (h : Hook) (c : Capture) : (t.set h c).get h = c := by
  cases h <;> rfl

theorem Timebase.get_set_other (t : Timebase) {h k : Hook} (c : Capture) (ne : k ≠ h) :
    (t.set h c).get k = t.get k := by
  match h, k with
  | .lead, .lead => exact absurd rfl ne
  | .lead, .trail => rfl
  | .trail, .lead => rfl
  | .trail, .trail => exact absurd rfl ne

@[simp] theorem Timebase.set_clock (t : Timebase) (h : Hook) (c : Capture) : (t.set h c).clock = t.clock := by
  cases h <;> rfl

theorem Capture.edge_on (on : Bool) (since : Time) (c : Capture) : (c.edge on since).on = on := by
  unfold Capture.edge
  cases c.armed <;> cases on <;> rfl

theorem Capture.edge_armed (on : Bool) (since : Time) (c : Capture) : (c.edge on since).armed = c.armed := by
  unfold Capture.edge
  split
  · split <;> rfl
  · rfl

/-- A disarmed capture takes the level only. -/
theorem Capture.edge_disarmed {c : Capture} (on : Bool) (since : Time) (h : c.armed = false) :
    c.edge on since = { c with on := on } := by
  unfold Capture.edge; rw [h]; rfl

/-- An armed capture keeps its first entry. -/
theorem Capture.edge_entry {c : Capture} (since : Time) (h : c.armed = true) :
    c.edge true since = { c with on := true, entry := some (c.entry.getD since) } := by
  unfold Capture.edge; rw [h]; rfl

/-- An armed capture keeps its last exit. -/
theorem Capture.edge_exit {c : Capture} (since : Time) (h : c.armed = true) :
    c.edge false since = { c with on := false, exit := some since } := by
  unfold Capture.edge; rw [h]; rfl

/-! ## The edge -/

section
variable {s : State} {hook : Hook} {on : Bool} {since : Time}

theorem heldLevel_iff : s.heldLevel since = true ↔
    timeLater since s.time.clock = false ∧ 20 ≤ (s.time.clock - since).toNat := by
  unfold State.heldLevel State.now
  rw [Bool.and_eq_true, Bool.not_eq_true', decide_eq_true_eq]

theorem exec_contactEdge_none (h : (s.time.get hook).on = on ∨ ¬s.heldLevel since = true) :
    exec (.contactEdge hook on since) s = .next s := by
  refine if_neg fun edge => ?_
  rw [Bool.and_eq_true, Bool.and_eq_true, bne_iff_ne] at edge
  obtain ⟨⟨-, changes⟩, held⟩ := edge
  exact h.elim changes (absurd held)

theorem exec_contactEdge_edge (isOn : s.roster.state ≠ .offline) (changes : (s.time.get hook).on ≠ on)
    (held : s.heldLevel since = true) :
    exec (.contactEdge hook on since) s = .next (s.contactEdge hook on since).finish := by
  refine if_pos ?_
  rw [Bool.and_eq_true, Bool.and_eq_true, bne_iff_ne]
  exact ⟨⟨(isOn_iff s).mpr isOn, changes⟩, held⟩

theorem draining_iff : s.draining = true ↔ ∃ time, s.activeKind = some (.drain time) := by
  unfold State.draining
  constructor
  · intro h
    split at h
    · next n drain => exact ⟨n, drain⟩
    · cases h
  · rintro ⟨n, drain⟩
    rw [drain]

/-- The state with the edge in the hook's capture, before the watch of a DRAIN. -/
def State.edgeTaken (hook : Hook) (on : Bool) (since : Time) (s : State) : State :=
  { s with time := s.time.set hook ((s.time.get hook).edge on since) }

theorem contactEdge_wet (rises : on = true) (drain : ∃ n, s.activeKind = some (.drain n)) :
    s.contactEdge hook on since = (s.edgeTaken hook on since).programFault .drainWet := by
  refine if_pos ?_
  rw [Bool.and_eq_true]
  exact ⟨rises, draining_iff.mpr drain⟩

theorem contactEdge_dry (h : on = false ∨ ∀ n, s.activeKind ≠ some (.drain n)) :
    s.contactEdge hook on since = s.edgeTaken hook on since := by
  refine if_neg fun wet => ?_
  rw [Bool.and_eq_true] at wet
  obtain ⟨rises, drain⟩ := wet
  obtain ⟨n, drain⟩ := draining_iff.mp drain
  rcases h with falls | other
  · exact Bool.false_ne_true (falls.symm.trans rises)
  · exact other n drain

end

/-- Settles O14: a change that is no edge; an edge at the capture by its arming and its level; then the DRAIN. -/
theorem contactEdgeIsCaptured : Obligations.ContactEdgeIsCaptured := by
  intro s hook on since isOn held
  refine ⟨fun none => exec_contactEdge_none (none.imp_right (mt heldLevel_iff.mp)), fun changes still => ?_⟩
  have edge := exec_contactEdge_edge isOn changes (heldLevel_iff.mpr still)
  have same : (s.edgeTaken hook on since).time.get hook = (s.time.get hook).edge on since := Timebase.get_set_same ..
  refine ⟨s.edgeTaken hook on since, rfl, fun h ne => Timebase.get_set_other s.time _ ne, Timebase.set_clock .., ?_⟩
  rw [same]
  refine ⟨Capture.edge_on .., Capture.edge_armed .., fun disarmed => ?_, fun armed rises => ?_, fun armed falls => ?_,
    fun rises drain => by rw [edge, contactEdge_wet rises drain], fun dry => by rw [edge, contactEdge_dry dry]⟩
  · rw [Capture.edge_disarmed on since disarmed]
    exact ⟨rfl, rfl⟩
  · rw [rises, Capture.edge_entry since armed]
    exact ⟨rfl, rfl⟩
  · rw [falls, Capture.edge_exit since armed]
    exact ⟨rfl, rfl⟩

end Sys2Proof.Machine
end

section
/-! PROOFS. The drive link: commands posted, MOVEs forgotten, and the channel that is served next (R133 to R135, R137;
logs 10, 16). -/

namespace Sys2Proof.Machine

/-! ## One channel of the Drive Port -/

@[simp] theorem setChannel_channel_same (s : State) (ch : Channel) (c : ChannelState) :
    (s.setChannel ch c).channel ch = c := by
  cases ch <;> rfl

theorem setChannel_channel_other (s : State) {ch d : Channel} (c : ChannelState) (ne : d ≠ ch) :
    (s.setChannel ch c).channel d = s.channel d := by
  match ch, d with
  | .lead, .lead | .trail, .trail | .travel, .travel => exact absurd rfl ne
  | .lead, .trail | .lead, .travel => rfl
  | .trail, .lead | .trail, .travel => rfl
  | .travel, .lead | .travel, .trail => rfl

@[simp] theorem DrivePort.set_turn (d : DrivePort) (ch : Channel) (c : ChannelState) : (d.set ch c).turn = d.turn := by
  cases ch <;> rfl

@[simp] theorem DrivePort.set_busy (d : DrivePort) (ch : Channel) (c : ChannelState) : (d.set ch c).busy = d.busy := by
  cases ch <;> rfl

@[simp] theorem DrivePort.set_errors (d : DrivePort) (ch : Channel) (c : ChannelState) :
    (d.set ch c).errors = d.errors := by
  cases ch <;> rfl

theorem ChannelState.post_move {cmd : DriveCommand} (c : ChannelState) (h : cmd ≠ .stop) :
    c.post cmd = { c with waiting := some cmd, waitingPresent := true } := by
  cases cmd with
  | move target v => rfl
  | stop => exact absurd rfl h

/-! ## The channel that is served -/

section
variable {s : State} {ch : Channel} {cmd : DriveCommand}

theorem firstWaiting_here (waits : (s.channel ch).waiting = some cmd) (rest : List Channel) :
    s.firstWaiting (ch :: rest) = some (ch, cmd) := by
  rw [State.firstWaiting, waits]

theorem firstWaiting_skips (silent : (s.channel ch).waiting = none) (rest : List Channel) :
    s.firstWaiting (ch :: rest) = s.firstWaiting rest := by
  rw [State.firstWaiting, silent]

/-- Among three channels the one is found that waits and, with each other that waits, stands before it. -/
theorem firstWaiting_three {a b c : Channel} (distinct : a ≠ b ∧ a ≠ c ∧ b ≠ c)
    (member : ch = a ∨ ch = b ∨ ch = c) (waits : (s.channel ch).waiting = some cmd)
    (first : ∀ d, d ≠ ch → (s.channel d).waiting ≠ none → ch = a ∨ (ch = b ∧ d = c)) :
    s.firstWaiting [a, b, c] = some (ch, cmd) := by
  obtain ⟨ab, ac, bc⟩ := distinct
  have silent {d : Channel} (ne : d ≠ ch) (later : ¬(ch = a ∨ (ch = b ∧ d = c))) : (s.channel d).waiting = none :=
    Classical.byContradiction fun w => later (first d ne w)
  rcases member with rfl | rfl | rfl
  · exact firstWaiting_here waits _
  · rw [firstWaiting_skips (silent ab fun h => h.elim (ab ·.symm) fun ⟨_, e⟩ => ac e)]
    exact firstWaiting_here waits _
  · have later {d : Channel} : ¬(ch = a ∨ (ch = b ∧ d = ch)) := fun h => h.elim (ac ·.symm) fun ⟨e, _⟩ => bc e.symm
    rw [firstWaiting_skips (silent ac later), firstWaiting_skips (silent bc later)]
    exact firstWaiting_here waits _

/-- The order of R134, turn pointer by turn pointer. -/
theorem firstWaiting_turnOrder (waits : (s.channel ch).waiting = some cmd)
    (first : ∀ d, d ≠ ch → (s.channel d).waiting ≠ none →
      (s.drive.turn = .lead → (ch = .trail ∨ (ch = .travel ∧ d = .lead))) ∧
      (s.drive.turn = .trail → (ch = .travel ∨ (ch = .lead ∧ d = .trail))) ∧
      (s.drive.turn = .travel → (ch = .lead ∨ (ch = .trail ∧ d = .travel)))) :
    s.firstWaiting (turnOrder s.drive.turn) = some (ch, cmd) := by
  cases turn : s.drive.turn with
  | lead => exact firstWaiting_three (by decide) (by cases ch <;> decide) waits fun d ne w => (first d ne w).1 turn
  | trail => exact firstWaiting_three (by decide) (by cases ch <;> decide) waits fun d ne w => (first d ne w).2.1 turn
  | travel =>
      exact firstWaiting_three (by decide) (by cases ch <;> decide) waits fun d ne w => (first d ne w).2.2 turn

theorem firstWaiting_congr {t : State} (h : ∀ d, (t.channel d).waiting = (s.channel d).waiting) :
    ∀ l : List Channel, t.firstWaiting l = s.firstWaiting l
  | [] => rfl
  | d :: l => by rw [State.firstWaiting, State.firstWaiting, h d, firstWaiting_congr h l]

/-- The state with the drive link free: a command has been sent. -/
def State.linkFreed (s : State) : State := { s with drive := { s.drive with busy := false } }

theorem exec_driveSendEnd (s : State) : exec .driveSendEnd s = .next s.linkFreed.serveDrives := rfl

theorem linkFreed_channel (s : State) (d : Channel) : s.linkFreed.channel d = s.channel d := by
  cases d <;> rfl

theorem serveDrives_sends (free : s.drive.busy = false)
    (found : s.firstWaiting (turnOrder s.drive.turn) = some (ch, cmd)) : s.serveDrives = s.sendOn ch cmd := by
  unfold State.serveDrives
  rw [free, found]
  rfl

theorem linkFreed_sendOn (s : State) (ch : Channel) (cmd : DriveCommand) :
    s.linkFreed.sendOn ch cmd = s.sendOn ch cmd := by
  unfold State.sendOn
  rw [linkFreed_channel]
  cases ch <;> rfl

/-- A link that becomes free, and one that is free, send what is found. -/
theorem link_sends (found : s.firstWaiting (turnOrder s.drive.turn) = some (ch, cmd)) :
    exec .driveSendEnd s = .next (s.sendOn ch cmd) ∧ (s.drive.busy = false → s.serveDrives = s.sendOn ch cmd) := by
  refine ⟨?_, fun free => serveDrives_sends free found⟩
  have same := firstWaiting_congr (s := s) (t := s.linkFreed) (fun d => by rw [linkFreed_channel])
  rw [exec_driveSendEnd, serveDrives_sends rfl ((same _).trans found), linkFreed_sendOn]

/-! ## What is sent -/

theorem rangeOf_eq (s : State) (ch : Channel) :
    s.rangeOf ch = if ch = .travel then s.conf.cells * s.conf.cellLength else 12000 := by
  cases ch <;> rfl

theorem send_move (c : ChannelState) (target : Int) (v range : Nat) (now : Time) :
    let start := c.report.map (·.position)
    c.send (.move target v) range now = { c with
      waiting := none
      inFlight := some ⟨target, v, start, now, .moving, c.waitingPresent, false⟩
      timer := some ⟨now, moveTime (moveDistance range start target) v⟩ } := rfl

theorem send_stop_idle {c : ChannelState} (idle : c.inFlight = none) (range : Nat) (now : Time) :
    c.send .stop range now = { c with waiting := none } := by
  rw [ChannelState.send, idle]

theorem send_stop_inFlight {c : ChannelState} {f : InFlight} (flies : c.inFlight = some f) (range : Nat) (now : Time) :
    c.send .stop range now = { c with
      waiting := none
      inFlight := some { f with status := if f.status = .moving then .stopping else f.status }
      timer := some ⟨now, 2000⟩ } := by
  rw [ChannelState.send, flies]
  rfl

end

/-- Settles O52: posting, forgetting, and the link that is idle, busy, or sends the first command after the turn
pointer. -/
theorem driveLinkServesInTurn : Obligations.DriveLinkServesInTurn := by
  refine ⟨fun s ch cmd => ?_, fun s => ⟨rfl, forgetMoves_channel s, rfl, rfl, rfl⟩,
    fun s lead trail travel => ?_, fun s busy => serveDrives_of_served (.inl busy), fun s ch cmd waits first => ?_⟩
  · have posted : (s.postCommand ch cmd).channel ch = (s.channel ch).post cmd := setChannel_channel_same ..
    refine ⟨rfl, fun stop => ?_, fun move => ?_, fun d ne => setChannel_channel_other s _ ne, DrivePort.set_turn ..,
      DrivePort.set_busy .., DrivePort.set_errors ..⟩
    · rw [posted, stop]
      rfl
    · rw [posted, ChannelState.post_move _ move]
  · have served : s.linkFreed.Served := .inr ⟨lead, trail, travel⟩
    exact ⟨by rw [exec_driveSendEnd, serveDrives_of_served served]; rfl,
      serveDrives_of_served (.inr ⟨lead, trail, travel⟩)⟩
  · intro c sends
    have sent {c' : ChannelState} (h : c.send cmd (s.rangeOf ch) s.time.clock = c') : sends c' :=
      h ▸ link_sends (firstWaiting_turnOrder waits first)
    refine ⟨fun target v move => sent ?_, fun stop idle => sent ?_, fun f stop flies => sent ?_⟩
    · rw [move, send_move, rangeOf_eq]
      cases c.report <;> rfl
    · rw [stop, send_stop_idle idle]
    · rw [stop, send_stop_inFlight flies]

end Sys2Proof.Machine
end

section
/-! PROOFS. What the drives send: ARRIVED, REPORT with the tests it brings, FAULT, READY and a discarded event, and the
move timers (R100, R136 to R142; logs 16, 19, 35, 38, 46). -/

namespace Sys2Proof.Machine

/-! ## ARRIVED (R136) -/

/-- The state with the command in flight on a channel ended. -/
def State.commandEnded (ch : Channel) (s : State) : State := s.setChannel ch (s.channel ch).endCommand

section
variable {s : State} {ch : Channel} {target : Int} {c : ChannelState} {f : InFlight}

/-- The command that an ARRIVED ends: in flight, toward its target, and not given up. -/
theorem arriving_iff : c.arriving target = some f ↔
    c.inFlight = some f ∧ f.target = target ∧ f.status ≠ .timedOut := by
  unfold ChannelState.arriving
  rw [Option.filter_eq_some_iff, Bool.and_eq_true, beq_iff_eq, bne_iff_ne]

theorem exec_arrived_ignored (h : ∀ f, (s.channel ch).inFlight = some f → f.target ≠ target ∨ f.status = .timedOut) :
    exec (.arrived ch target) s = .next s := by
  have none : (s.channel ch).arriving target = none := Option.eq_none_iff_forall_ne_some.mpr fun f some => by
    obtain ⟨flies, toward, status⟩ := arriving_iff.mp some
    exact (h f flies).elim (absurd toward) status
  change execArrived ch target s = _
  unfold execArrived
  rw [none]

theorem exec_arrived_taken (flies : (s.channel ch).inFlight = some f) (toward : f.target = target)
    (status : f.status ≠ .timedOut) : exec (.arrived ch target) s =
      .next ((s.commandEnded ch).markArrived ch f).finish := by
  change execArrived ch target s = _
  unfold execArrived
  rw [arriving_iff.mpr ⟨flies, toward, status⟩]
  rfl

theorem mark_eq (ch : Channel) (q : Sequencer) : q.mark ch = { q with
    arrivedLead := q.arrivedLead || ch == .lead
    arrivedTrail := q.arrivedTrail || ch == .trail
    arrivedTravel := q.arrivedTravel || ch == .travel } := by
  cases ch <;> simp [Sequencer.mark]

theorem marks_iff : (f.isPresent && (s.seq.activity == .segment || s.seq.activity == .lift)) = true ↔
    f.isPresent = true ∧ (s.seq.activity = .segment ∨ s.seq.activity = .lift) := by
  rw [Bool.and_eq_true, Bool.or_eq_true, beq_iff_eq, beq_iff_eq]

theorem markArrived_present (ch : Channel) (present : f.isPresent = true)
    (walks : s.seq.activity = .segment ∨ s.seq.activity = .lift) : s.markArrived ch f = s.setSeq (s.seq.mark ch) :=
  if_pos (marks_iff.mpr ⟨present, walks⟩)

theorem markArrived_past (ch : Channel)
    (h : f.isPresent = false ∨ ¬(s.seq.activity = .segment ∨ s.seq.activity = .lift)) : s.markArrived ch f = s := by
  refine if_neg fun marks => ?_
  obtain ⟨present, walks⟩ := marks_iff.mp marks
  exact h.elim (Bool.eq_false_iff.mp · present) (absurd walks)

/-! ## REPORT (R137, R141) -/

theorem stopping_iff : c.stopping = true ↔ ∃ f, c.inFlight = some f ∧ f.status ≠ .moving := by
  simp [ChannelState.stopping, Option.any_eq_true]

/-- The channel with a report kept: the latest, and the mark that it has reported. -/
def ChannelState.reported (r : DriveReport) (c : ChannelState) : ChannelState :=
  { c with report := some r, inFlight := c.inFlight.map fun f => { f with reported := true } }

theorem takeReport_ends {r : DriveReport} (still : r.moving = false)
    (stops : ∃ f, c.inFlight = some f ∧ f.status ≠ .moving) :
    c.takeReport r = (c.reported r).endCommand := by
  refine if_pos ?_
  rw [Bool.and_eq_true, Bool.not_eq_true']
  exact ⟨still, stopping_iff.mpr stops⟩

theorem takeReport_keeps {r : DriveReport}
    (h : ¬(r.moving = false ∧ ∃ f, c.inFlight = some f ∧ f.status ≠ .moving)) : c.takeReport r = c.reported r := by
  refine if_neg fun ends => h ?_
  rw [Bool.and_eq_true, Bool.not_eq_true', stopping_iff] at ends
  exact ends

theorem testReport_eq (ch : Channel) (s : State) :
    s.testReport ch = if ch = .travel then s.travelTest else s.syncTest := by
  cases ch <;> rfl

theorem exec_report_on (on : s.roster.state ≠ .offline) (position : Int) (load : Nat) (moving : Bool) :
    exec (.report ch position load moving) s = .next ((s.setChannel ch
      ((s.channel ch).takeReport ⟨position, load, moving, s.time.clock⟩)).testReport ch).finish :=
  if_pos ((isOn_iff s).mpr on)

/-! ## The test against the spans (R100) -/

theorem lowering_iff (s : State) (c : ChannelState) : s.lowering c = true ↔
    (∃ f, c.inFlight = some f ∧ f.target < s.conf.clear) ∨
      ∃ target v, c.waiting = some (.move target v) ∧ target < s.conf.clear := by
  have flying : c.inFlight.any (fun f => s.belowClear f.target) = true ↔
      ∃ f, c.inFlight = some f ∧ f.target < s.conf.clear := by
    simp [State.belowClear, Option.any_eq_true]
  unfold State.lowering
  rw [Bool.or_eq_true, flying]
  refine or_congr Iff.rfl ?_
  rcases c.waiting with _ | ⟨target, v⟩ | _ <;> simp [State.belowClear]

theorem travelTest_guard (s : State) :
    (s.seq.activity == .segment && s.runningJob.isSome && (s.lowering s.drive.lead || s.lowering s.drive.trail) &&
      !s.mayLower) = true ↔
      (s.seq.activity = .segment ∧ s.runningJob ≠ none ∧
        (s.lowering s.drive.lead = true ∨ s.lowering s.drive.trail = true)) ∧ ¬s.mayLower = true := by
  simp [Option.isSome_iff_ne_none, and_assoc]

/-! ## The current cell (R141) -/

theorem currentCell_unreported (h : s.drive.travel.report = none) : s.currentCell = none := by
  unfold State.currentCell
  rw [show (s.channel .travel).report = none from h]

/-- A position lies in one of the cells when it lies on their length. -/
theorem inCells_iff (p : Int) (cells len : Nat) :
    (0 ≤ p ∧ 0 < len ∧ p.toNat / len < cells) ↔ 0 ≤ p ∧ p < ((cells * len : Nat) : Int) := by
  refine and_congr_right fun pos => ?_
  have onLength : p < ((cells * len : Nat) : Int) ↔ p.toNat < cells * len := by omega
  rw [onLength]
  constructor
  · rintro ⟨len_pos, inCell⟩
    exact (Nat.div_lt_iff_lt_mul len_pos).mp inCell
  · intro lt
    have len_pos : 0 < len := Nat.pos_of_ne_zero fun zero => by rw [zero] at lt; exact absurd lt (Nat.not_lt_zero _)
    exact ⟨len_pos, (Nat.div_lt_iff_lt_mul len_pos).mpr lt⟩

theorem currentCell_reported {r : DriveReport} (h : s.drive.travel.report = some r) :
    s.currentCell =
      if 0 ≤ r.position ∧ r.position < ((s.conf.cells * s.conf.cellLength : Nat) : Int) then
        some (r.position.toNat / s.conf.cellLength)
      else none := by
  unfold State.currentCell
  rw [show (s.channel .travel).report = some r from h]
  exact ite_congr (propext (inCells_iff ..)) (fun _ => rfl) fun _ => rfl

/-! ## The sync check (R142) -/

theorem noMoveWaits_iff (c : ChannelState) :
    (!c.waiting.any DriveCommand.isMove) = true ↔ ∀ target v, c.waiting ≠ some (.move target v) := by
  rcases c.waiting with _ | ⟨target, v⟩ | _ <;> simp [DriveCommand.isMove]

/-- What the sync check counts on a channel. -/
def ChannelState.Counts (c : ChannelState) (f : InFlight) (r : DriveReport) : Prop :=
  c.inFlight = some f ∧ c.report = some r ∧ f.status = .moving ∧ f.isPresent = true ∧ f.reported = true ∧
    ∀ target v, c.waiting ≠ some (.move target v)

theorem syncProgress_counted {r : DriveReport} (h : c.Counts f r) : c.syncProgress = some (progress f r.position) := by
  obtain ⟨flies, report, moving, present, reported, alone⟩ := h
  unfold ChannelState.syncProgress
  rw [flies, report]
  exact if_pos ⟨moving, present, reported, (noMoveWaits_iff c).mpr alone⟩

theorem syncProgress_uncounted (h : ∀ f r, ¬c.Counts f r) : c.syncProgress = none := by
  unfold ChannelState.syncProgress
  split
  · next f r flies report =>
      refine if_neg fun ⟨moving, present, reported, alone⟩ => h f r ?_
      exact ⟨flies, report, moving, present, reported, (noMoveWaits_iff c).mp alone⟩
  · rfl

theorem progress_there {start : Int} (position : Int) (h : f.start = some start) (there : f.target = start) :
    progress f position = 100 := by
  unfold progress
  rw [h, there]
  exact if_pos (by rw [Int.sub_self]; rfl)

theorem progress_under_way {start : Int} (position : Int) (h : f.start = some start) (away : f.target ≠ start) :
    progress f position = min 100 ((position - start).natAbs * 100 / (f.target - start).natAbs) := by
  unfold progress
  rw [h]
  exact if_neg fun zero => away (Int.eq_of_sub_eq_zero (Int.natAbs_eq_zero.mp zero))

theorem inSync_iff (s : State) : s.inSync = true ↔ s.seq.activity = .segment ∧ s.seq.phase = some .moving ∧
    ∃ g lead trail v, s.segment = some g ∧ g.kind = .hoist lead trail v ∧ g.modes.sync = true := by
  unfold State.inSync
  rw [Bool.and_eq_true, Bool.and_eq_true, beq_iff_eq, beq_iff_eq, and_assoc]
  refine and_congr_right fun _ => and_congr_right fun _ => ?_
  cases s.segment with
  | none => simp
  | some g => cases kind : g.kind <;> simp [kind]

theorem apart_iff (tolerance a b : Nat) : apart tolerance a b = true ↔ tolerance < a - b ∨ tolerance < b - a := by
  unfold apart
  rw [Bool.or_eq_true, decide_eq_true_eq, decide_eq_true_eq]

theorem syncTest_parted {a b : Nat} (sync : s.inSync = true) (lead : s.drive.lead.syncProgress = some a)
    (trail : s.drive.trail.syncProgress = some b) (parted : apart s.conf.syncTolerance a b = true) :
    s.syncTest = s.latch .drive .sync := by
  unfold State.syncTest
  rw [lead, trail]
  exact (if_pos sync).trans (if_pos parted)

theorem syncTest_together (h : ¬s.inSync = true ∨ ¬∃ a b, s.drive.lead.syncProgress = some a ∧
    s.drive.trail.syncProgress = some b ∧ apart s.conf.syncTolerance a b = true) : s.syncTest = s := by
  unfold State.syncTest
  split
  · next sync =>
      have near := h.resolve_left (not_not_intro sync)
      split
      · next a b lead trail => exact if_neg fun parted => near ⟨a, b, lead, trail, parted⟩
      · rfl
  · rfl

end

/-- Settles O53: ARRIVED, REPORT, the test against the spans, the current cell, the progress and the sync check. -/
theorem arrivedAndReportAreTaken : Obligations.ArrivedAndReportAreTaken := by
  refine ⟨fun s ch target => ?_, fun s ch position load moving on => ?_, fun s => ?_, fun s => ?_, fun c => ?_,
    fun s => ?_⟩
  · intro c u walks marked
    refine ⟨fun idle => exec_arrived_ignored fun f flies => ?_,
      fun f flies no => exec_arrived_ignored fun g flies' => ?_, fun f flies toward status => ?_⟩
    · exact nomatch idle.symm.trans flies
    · exact Option.some.inj (flies.symm.trans flies') ▸ no
    · have taken := exec_arrived_taken flies toward status
      refine ⟨fun present walking => ?_, fun past => ?_⟩
      · rw [taken, markArrived_present (s := s.commandEnded ch) ch present walking, mark_eq]
        rfl
      · rw [taken, markArrived_past (s := s.commandEnded ch) ch past]
        rfl
  · intro c r kept stops hands
    have handed {c' : ChannelState} (h : c.takeReport r = c') : hands (s.setChannel ch c') := by
      have taken := exec_report_on (ch := ch) on position load moving
      rw [testReport_eq] at taken
      exact h ▸ taken
    exact ⟨fun ⟨still, f⟩ => handed (takeReport_ends still f), fun no => handed (takeReport_keeps no)⟩
  · intro lowers above tested
    have guard : _ ↔ tested ∧ ¬above := (travelTest_guard s).trans (by
      rw [lowering_iff, lowering_iff, mayLower_iff])
    exact ⟨fun test off => if_pos (guard.mpr ⟨test, off⟩),
      fun h => if_neg fun fails => h.elim (absurd (guard.mp fails).1) (guard.mp fails).2⟩
  · refine ⟨currentCell_unreported, fun r report => ⟨fun out => ?_, fun pos lt => ?_⟩⟩
    · refine (currentCell_reported report).trans (if_neg fun ⟨pos, lt⟩ => ?_)
      exact out.elim (Int.not_lt.mpr pos) (Int.not_le.mpr lt)
    · exact (currentCell_reported report).trans (if_pos ⟨pos, lt⟩)
  · intro counts
    refine ⟨syncProgress_uncounted, fun f r h => by rw [syncProgress_counted h]; rfl, fun f r start h begun =>
      ⟨fun there => ?_, fun away => ?_⟩⟩
    · rw [syncProgress_counted h, progress_there _ begun there]
    · rw [syncProgress_counted h, progress_under_way _ begun away]
  · intro sync parted
    have inSync : s.inSync = true ↔ sync := inSync_iff s
    refine ⟨fun h ⟨a, b, lead, trail, far⟩ => ?_, fun h => syncTest_together (h.imp (mt inSync.mp) (mt ?_))⟩
    · exact syncTest_parted (inSync.mpr h) lead trail ((apart_iff ..).mpr far)
    · exact fun ⟨a, b, lead, trail, far⟩ => ⟨a, b, lead, trail, (apart_iff ..).mp far⟩

/-! ## FAULT, READY and a discarded event (R139, R140) -/

section
variable {s : State} {ch : Channel} {f : InFlight} {t : Timer}

theorem exec_fault_on (on : s.roster.state ≠ .offline) (code : Byte) : exec (.fault ch code) s =
    .next (((s.setChannel ch ((s.channel ch).takeFault code)).latch .drive (.fault ch code)).finish) :=
  if_pos ((isOn_iff s).mpr on)

theorem exec_ready_on (on : s.roster.state ≠ .offline) :
    exec (.ready ch) s = .next (s.setChannel ch { s.channel ch with ready := true }) :=
  if_pos ((isOn_iff s).mpr on)

theorem exec_driveEventDiscarded_on (on : s.roster.state ≠ .offline) : exec .driveEventDiscarded s =
    .next { s with drive := { s.drive with errors := satInc s.drive.errors } } :=
  if_pos ((isOn_iff s).mpr on)

theorem satInc_eq (n : Nat) : satInc n = if n < 65535 then n + 1 else n := rfl

/-! ## The move timers (R137, R138) -/

theorem timerOf_running {c : ChannelState} {p : FlightStatus → Bool} (flies : c.inFlight = some f)
    (status : p f.status = true) (timer : c.timer = some t) : c.timerOf p = some t := by
  unfold ChannelState.timerOf
  rw [flies, timer]
  exact if_pos status

/-- A move that runs out of time is given up (R138). -/
theorem exec_moveTimer_of_due (flies : (s.channel ch).inFlight = some f) (timer : (s.channel ch).timer = some t)
    (due : t.due s.time.clock = true) (moving : f.status = .moving) :
    exec (.moveTimerExpiry ch) s = .next (s.timeOutMove ch).finish := by
  have running := timerOf_running (p := (· == .moving)) flies (by rw [moving]; rfl) timer
  exact congrArg Host.Outcome.next (onExpiry_of_due running due fun u => (u.timeOutMove ch).finish)

/-- The allowance of a STOP that runs out ends its command (R137). -/
theorem exec_stopAllowance_of_due (flies : (s.channel ch).inFlight = some f) (timer : (s.channel ch).timer = some t)
    (due : t.due s.time.clock = true) (stopping : f.status ≠ .moving) :
    exec (.stopAllowanceExpiry ch) s = .next (s.endAllowance ch).finish := by
  have running := timerOf_running (p := (· != .moving)) flies (bne_iff_ne.mpr stopping) timer
  exact congrArg Host.Outcome.next (onExpiry_of_due running due fun u => (u.endAllowance ch).finish)

theorem giveUp_inFlight {c : ChannelState} (flies : c.inFlight = some f) :
    c.giveUp = { c with timer := none, inFlight := some { f with status := .timedOut } } := by
  unfold ChannelState.giveUp
  rw [flies]
  rfl

theorem endAllowance_stopping (flies : (s.channel ch).inFlight = some f) (stopping : f.status = .stopping) :
    s.endAllowance ch = (s.latch .drive (.timeout ch)).commandEnded ch := by
  unfold State.endAllowance
  rw [flies, Option.any_some, stopping]
  rfl

theorem endAllowance_timedOut (flies : (s.channel ch).inFlight = some f) (gaveUp : f.status = .timedOut) :
    s.endAllowance ch = s.commandEnded ch := by
  unfold State.endAllowance
  rw [flies, Option.any_some, gaveUp]
  rfl

end

/-- Settles O54: the three events of a channel; then the timer of a MOVING, of a STOPPING and of a TIMED_OUT command. -/
theorem driveFaultsAndTimersAreTaken : Obligations.DriveFaultsAndTimersAreTaken := by
  refine ⟨fun s ch code on => ⟨exec_fault_on on code, exec_ready_on on, ?_⟩, fun s ch f t flies timer due => ?_⟩
  · rw [exec_driveEventDiscarded_on on, satInc_eq]
  · refine ⟨fun moving => ?_, fun stopping => ?_, fun gaveUp => ?_⟩
    · rw [exec_moveTimer_of_due flies timer due moving, State.timeOutMove, giveUp_inFlight flies]
    · have status : f.status ≠ .moving := by rw [stopping]; decide
      rw [exec_stopAllowance_of_due flies timer due status, endAllowance_stopping flies stopping]
      rfl
    · have status : f.status ≠ .moving := by rw [gaveUp]; decide
      rw [exec_stopAllowance_of_due flies timer due status, endAllowance_timedOut flies gaveUp]
      rfl

end Sys2Proof.Machine
end

section
/-! PROOFS. Posting and the head of the posting queue: what a posting does by the state of the station, the queue and the
line, how the counters rise, and what an idle gap, a lost arbitration and a frame sent leave (R150 to R154, R160, R163,
R164; logs 3, 9). -/

namespace Sys2Proof.Machine

/-! ## Posting (R150, R151) -/

section
variable {s : State} (d : Dest) (p : Payload)

theorem post_notJoined (off : s.joined = false) : s.post d p = s :=
  if_neg (ne_true_of_eq_false off)

theorem post_full (on : s.joined = true) (full : 8 ≤ s.link.queue.length) : s.post d p = s.countLink .postDrop :=
  (if_pos on).trans (if_neg (Nat.not_lt.mpr full))

/-- A queue with room takes the frame, which is begun when the queue was empty on an idle line. -/
theorem post_room (on : s.joined = true) (room : s.link.queue.length < 8) :
    s.post d p =
      let t := s.enqueue ⟨s.own, d, p⟩
      if s.link.lineIdle && s.link.queue.isEmpty then { t with link := t.link.begin } else t :=
  (if_pos on).trans (if_pos room)

theorem post_begins (on : s.joined = true) (idle : s.link.lineIdle = true) (empty : s.link.queue = []) :
    s.post d p = { s with link := { s.link with
      queue := [⟨s.own, d, p⟩], sending := .sending, lineIdle := false } } := by
  have room : s.link.queue.length < 8 := by rw [empty]; decide
  rw [post_room d p on room, State.enqueue, idle, empty]
  exact if_pos rfl

theorem post_waits (on : s.joined = true) (room : s.link.queue.length < 8)
    (waits : s.link.lineIdle = false ∨ s.link.queue ≠ []) :
    s.post d p = { s with link := { s.link with queue := s.link.queue ++ [⟨s.own, d, p⟩] } } := by
  refine (post_room d p on room).trans (if_neg fun begins => ?_)
  rw [Bool.and_eq_true, List.isEmpty_iff] at begins
  obtain ⟨idle, empty⟩ := begins
  exact waits.elim (fun busy => Bool.false_ne_true (busy.symm.trans idle)) (absurd empty)

end

theorem satInc_le {n : Nat} (h : n ≤ 65535) : satInc n ≤ 65535 := by
  rw [satInc_eq]
  split <;> omega

/-- Settles O15: the outcomes of a posting one by one; a count is its counter's `satInc` and the flag. -/
theorem postingKeepsOrderAndCountersSaturate : Obligations.PostingKeepsOrderAndCountersSaturate :=
  ⟨fun _ d p => ⟨fun on room => ⟨post_begins d p on, post_waits d p on room⟩, post_full d p, post_notJoined d p⟩,
    fun _ _ => ⟨rfl, rfl, rfl, rfl, rfl, rfl, satInc_le⟩⟩

/-! ## The head frame (R150, R152 to R154) -/

section
variable {s : State}

theorem Link.begin_nil {l : Link} (h : l.queue = []) : l.begin = { l with lineIdle := true } :=
  if_pos (List.isEmpty_iff.mpr h)

theorem Link.begin_head {l : Link} (h : l.queue ≠ []) : l.begin = { l with sending := .sending, lineIdle := false } :=
  if_neg (mt List.isEmpty_iff.mp h)

/-- A line that nothing holds dominant, at a station that is on, is found idle. -/
theorem exec_idleGap_free (on : s.roster.state ≠ .offline) (quiet : s.link.inBreak = false)
    (undriven : s.link.breakDrive = none) :
    exec .idleGapExpiry s = .next { s with link :=
      if s.joined then s.lineTaken.link.begin else { s.lineTaken.link with lineIdle := true } } := by
  refine if_pos ?_
  rw [(isOn_iff s).mpr on, quiet, undriven]
  rfl

theorem exec_idleGap_held (h : s.roster.state = .offline ∨ s.link.inBreak = true ∨ s.link.breakDrive ≠ none) :
    exec .idleGapExpiry s = .next s := by
  refine if_neg fun free => ?_
  rw [Bool.and_eq_true, Bool.and_eq_true, isOn_iff, Bool.not_eq_true', Option.isNone_iff_eq_none] at free
  obtain ⟨⟨on, quiet⟩, undriven⟩ := free
  rcases h with off | broken | driven
  · exact on off
  · exact Bool.false_ne_true (quiet.symm.trans broken)
  · exact driven undriven

theorem joined_false_iff (s : State) : s.joined = false ↔ s.roster.state ≠ .listening ∧ s.roster.state ≠ .active := by
  rw [← Bool.not_eq_true, joined_iff, not_or]

theorem notIsolated_of_joined (h : s.joined = true) : s.roster.state ≠ .isolated := by
  intro isolated
  rw [joined_iff, isolated] at h
  rcases h with h | h <;> cases h

theorem notJoined_of_isolated (h : s.roster.state = .isolated) : s.joined = false :=
  eq_false_of_ne_true fun on => notIsolated_of_joined on h

theorem notJoined_of_loading (h : s.roster.state = .loading) : s.joined = false :=
  (joined_false_iff s).mpr (by rw [h]; decide)

/-- Outside ISOLATED a line that is taken leaves the queue as it was (R150). -/
theorem lineTaken_keepsQueue (h : s.roster.state ≠ .isolated) :
    s.lineTaken = { s with link := { s.link with sending := .idle, lineIdle := false } } := by
  unfold State.lineTaken
  rw [if_neg h]

theorem lineTaken_isolated (h : s.roster.state = .isolated) :
    s.lineTaken = { s with link := { s.link with sending := .idle, lineIdle := false, queue := [] } } := by
  unfold State.lineTaken
  rw [if_pos h]

theorem exec_idleGap_joined (on : s.joined = true) (quiet : s.link.inBreak = false)
    (undriven : s.link.breakDrive = none) : exec .idleGapExpiry s =
      .next { s with link := ({ s.link with sending := .idle, lineIdle := false } : Link).begin } := by
  rw [exec_idleGap_free ((isOn_iff s).mp (isOn_of_joined on)) quiet undriven, if_pos on,
    lineTaken_keepsQueue (notIsolated_of_joined on)]

theorem exec_idleGap_head (on : s.joined = true) (quiet : s.link.inBreak = false)
    (undriven : s.link.breakDrive = none) (waiting : s.link.queue ≠ []) :
    exec .idleGapExpiry s = .next { s with link := { s.link with sending := .sending, lineIdle := false } } := by
  rw [exec_idleGap_joined on quiet undriven, Link.begin_head]
  exact waiting

theorem exec_idleGap_empty (on : s.joined = true) (quiet : s.link.inBreak = false)
    (undriven : s.link.breakDrive = none) (empty : s.link.queue = []) :
    exec .idleGapExpiry s = .next { s with link := { s.link with sending := .idle, lineIdle := true } } := by
  rw [exec_idleGap_joined on quiet undriven, Link.begin_nil]
  exact empty

theorem exec_idleGap_isolated (isolated : s.roster.state = .isolated) (quiet : s.link.inBreak = false)
    (undriven : s.link.breakDrive = none) : exec .idleGapExpiry s =
      .next { s with link := { s.link with sending := .idle, lineIdle := true, queue := [] } } := by
  have on : s.roster.state ≠ .offline := by rw [isolated]; decide
  rw [exec_idleGap_free on quiet undriven, notJoined_of_isolated isolated, lineTaken_isolated isolated]
  rfl

theorem exec_idleGap_loading (loading : s.roster.state = .loading) (quiet : s.link.inBreak = false)
    (undriven : s.link.breakDrive = none) : exec .idleGapExpiry s =
      .next { s with link := { s.link with sending := .idle, lineIdle := true } } := by
  have on : s.roster.state ≠ .offline := by rw [loading]; decide
  have joins : s.roster.state ≠ .isolated := by rw [loading]; decide
  rw [exec_idleGap_free on quiet undriven, notJoined_of_loading loading, lineTaken_keepsQueue joins]
  rfl

/-- A lost arbitration is counted; the queue is kept but in ISOLATED. -/
theorem exec_lostArbitration_sending (sends : s.link.sending = .sending) : exec .lostArbitration s =
    .next (({ s with link := { s.link with
      sending := .idle, queue := if s.roster.state = .isolated then [] else s.link.queue } } : State).countLink
        .lostArbitration) :=
  if_pos sends

theorem exec_lostArbitration_keepsHead (sends : s.link.sending = .sending) (h : s.roster.state ≠ .isolated) :
    exec .lostArbitration s =
      .next (({ s with link := { s.link with sending := .idle } } : State).countLink .lostArbitration) := by
  rw [exec_lostArbitration_sending sends, if_neg h]

theorem exec_lostArbitration_isolated (sends : s.link.sending = .sending) (h : s.roster.state = .isolated) :
    exec .lostArbitration s =
      .next (({ s with link := { s.link with sending := .idle, queue := [] } } : State).countLink
        .lostArbitration) := by
  rw [exec_lostArbitration_sending sends, if_pos h]

theorem exec_frameSent_sending (sends : s.link.sending = .sending) : exec .frameSent s =
    .next { s with link := { s.link with sending := .idle, queue := s.link.queue.tail } } :=
  if_pos sends

/-- With nothing being sent, neither end of a sending is one (log 9). -/
theorem exec_sendingEnds_idle (idle : s.link.sending = .idle) :
    exec .lostArbitration s = .next s ∧ exec .frameSent s = .next s := by
  have rests : s.link.sending ≠ .sending := by rw [idle]; decide
  exact ⟨if_neg rests, if_neg rests⟩

end

/-- Settles O17: an idle gap by the station state; a break, which hides it; the ends of a sending; the ends of a break. -/
theorem headFrameContendsAndBreaksEnd : Obligations.HeadFrameContendsAndBreaksEnd :=
  ⟨fun _ _ quiet undriven =>
      ⟨fun on => exec_idleGap_head on quiet undriven, fun on => exec_idleGap_empty on quiet undriven,
        fun isolated => exec_idleGap_isolated isolated quiet undriven,
        fun loading => exec_idleGap_loading loading quiet undriven⟩,
    fun _ => exec_idleGap_held,
    fun _ => ⟨exec_lostArbitration_keepsHead, exec_lostArbitration_isolated, exec_frameSent_sending,
      exec_sendingEnds_idle⟩,
    fun _ => ⟨rfl, rfl⟩⟩

end Sys2Proof.Machine
end

section
/-! PROOFS. The three tests of a frame (R156, R206): the codes that name something, what the fields of a payload hold when it
can be read, and what each test says of the characters. -/

namespace Sys2Proof.Machine

/-! ## Fields -/

theorem fieldAt_drop (p : List Byte) (m start len : Nat) : fieldAt (p.drop m) start len = fieldAt p (m + start) len := by
  unfold fieldAt
  rw [List.drop_drop]

theorem fieldAt_take {m start len : Nat} (p : List Byte) (within : start + len ≤ m) :
    fieldAt (p.take m) start len = fieldAt p start len := by
  unfold fieldAt
  rw [List.drop_take, List.take_take, Nat.min_eq_left (by omega)]

/-! ## Codes -/

theorem ClaimKind.ofCode_isSome : ∀ n : Nat, (ClaimKind.ofCode n).isSome ↔ n ≤ 2
  | 0 | 1 | 2 => by decide
  | n + 3 => iff_of_false Bool.false_ne_true (by omega)

theorem Verdict.ofCode_isSome : ∀ n : Nat, (Verdict.ofCode n).isSome ↔ n ≤ 2
  | 0 | 1 | 2 => by decide
  | n + 3 => iff_of_false Bool.false_ne_true (by omega)

theorem EntryKind.ofCode_isSome : ∀ n : Nat, (EntryKind.ofCode n).isSome ↔ n ≤ 3
  | 0 | 1 | 2 | 3 => by decide
  | n + 4 => iff_of_false Bool.false_ne_true (by omega)

theorem StationState.ofCode_isSome : ∀ n : Nat, (StationState.ofCode n).isSome ↔ n ≤ 4
  | 0 | 1 | 2 | 3 | 4 => by decide
  | n + 5 => iff_of_false Bool.false_ne_true (by omega)

theorem AccountState.ofCode_isSome : ∀ n : Nat, (AccountState.ofCode n).isSome ↔ n ≤ 3
  | 0 | 1 | 2 | 3 => by decide
  | n + 4 => iff_of_false Bool.false_ne_true (by omega)

theorem bitOfCode_isSome : ∀ n : Nat, (bitOfCode n).isSome ↔ n ≤ 1
  | 0 | 1 => by decide
  | n + 2 => iff_of_false Bool.false_ne_true (by omega)

theorem rankOfCode_isSome (n : Nat) : (rankOfCode n).isSome ↔ n ≤ 7 := by
  unfold rankOfCode
  split
  case isTrue small => exact iff_of_true rfl (Nat.le_of_lt_succ small)
  case isFalse large => exact iff_of_false Bool.false_ne_true (by omega)

/-- A destination is read from the character that names it, and from no other. -/
theorem Dest.ofByte_eq_some_iff (b : Byte) (d : Dest) : Dest.ofByte b = some d ↔ d.byte = b := by
  constructor
  · unfold Dest.ofByte
    intro h
    split at h
    case isTrue all =>
      cases h
      exact all.symm
    case isFalse =>
      obtain ⟨r, hr, rfl⟩ := Option.map_eq_some_iff.mp h
      exact (congrArg (BitVec.ofNat 8) (rankOfCode_some hr)).trans (by simp)
  · rintro rfl
    cases d with
    | all => rfl
    | rank r => revert r; decide

theorem Dest.ofByte_isSome (b : Byte) : (Dest.ofByte b).isSome ↔ b = 0xFF#8 ∨ b.toNat < 8 := by
  unfold Dest.ofByte
  split
  case isTrue all => exact iff_of_true rfl (.inl all)
  case isFalse other =>
    rw [Option.isSome_map, rankOfCode_isSome, Nat.lt_succ_iff, or_iff_right other]

/-- A kind is read from its class and code, and from no other. -/
theorem FrameKind.ofClassCode_eq_some_iff (cls code : Nat) (k : FrameKind) :
    FrameKind.ofClassCode cls code = some k ↔ k.classCode = (cls, code) := by
  constructor
  · unfold FrameKind.ofClassCode
    intro h
    split at h <;> cases h <;> rfl
  · intro h
    cases k <;> cases h <;> rfl

/-! ## Reading one field after the other -/

section
variable {α β : Type} {P Q : Prop} {o : Option α}

/-- A field and then the rest: both have to be readable. -/
theorem isSome_bind_iff {g : α → Option β} (first : o.isSome ↔ P) (rest : ∀ a, (g a).isSome ↔ Q) :
    (o >>= g).isSome ↔ P ∧ Q := by
  rw [← first]
  cases o with
  | none => simp
  | some a => simpa using rest a

/-- The last field decides. -/
theorem isSome_bind_some {f : α → β} (last : o.isSome ↔ P) : (o >>= fun a => some (f a)).isSome ↔ P := by
  rw [← last]
  cases o <;> rfl

theorem isSome_ite [Decidable P] (a : α) : (if P then some a else none).isSome ↔ P := by
  split <;> simpa

end

/-! ## The third test: ranks, codes, counts and masses in their ranges -/

theorem readIdentityFields_isSome (p : List Byte) : (readIdentityFields p).isSome ↔ fieldAt p 10 1 ≤ 4 :=
  isSome_bind_some (StationState.ofCode_isSome _)

theorem readClaim_isSome (p : List Byte) :
    (readClaim p).isSome ↔ fieldAt p 2 1 ≤ 2 ∧ fieldAt p 9 4 ≤ 16000000 :=
  isSome_bind_iff (ClaimKind.ofCode_isSome _) fun _ => isSome_ite _

/-- The claims of a STATE are readable when each of them is. -/
theorem readClaims_isSome : ∀ (n : Nat) (p : List Byte), (readClaims n p).isSome ↔
    ∀ i < n, fieldAt p (2 + 13 * i) 1 ≤ 2 ∧ fieldAt p (9 + 13 * i) 4 ≤ 16000000
  | 0, _ => iff_of_true rfl nofun
  | n + 1, p => by
      have head : (readClaim (p.take 13)).isSome ↔ fieldAt p 2 1 ≤ 2 ∧ fieldAt p 9 4 ≤ 16000000 := by
        rw [readClaim_isSome, fieldAt_take p (by decide), fieldAt_take p (by decide)]
      have tail := readClaims_isSome n (p.drop 13)
      have next (k i : Nat) : 13 + (k + 13 * i) = k + 13 * (i + 1) := by omega
      simp only [fieldAt_drop, next] at tail
      rw [Nat.forall_lt_succ_left]
      exact isSome_bind_iff head fun _ => isSome_bind_some tail

/-- The third test of R156, by kind. -/
def FrameKind.InRange (k : FrameKind) (p : List Byte) : Prop :=
  match k with
  | .verdict => fieldAt p 2 1 ≤ 2 ∧ fieldAt p 3 1 ≤ 1
  | .vacate => fieldAt p 0 1 ≤ 7
  | .claim => fieldAt p 2 1 ≤ 2 ∧ fieldAt p 9 4 ≤ 16000000
  | .entry => fieldAt p 4 1 ≤ 3 ∧ (signedOf 4 (fieldAt p 5 4)).natAbs ≤ 16000000
  | .beacon => fieldAt p 10 1 ≤ 4 ∧ fieldAt p 15 1 ≤ 2 ∧ fieldAt p 60 1 ≤ 3
  | .join => fieldAt p 10 1 ≤ 4
  | .state => fieldAt p 10 1 ≤ 4 ∧ fieldAt p 15 1 ≤ 3 ∧
      ∀ i < fieldAt p 16 1, fieldAt p (19 + 13 * i) 1 ≤ 2 ∧ fieldAt p (26 + 13 * i) 4 ≤ 16000000
  | _ => True

theorem readPayload_isSome (k : FrameKind) (p : List Byte) : (readPayload k p).isSome ↔ k.InRange p := by
  cases k with
  | release | gap | gone | fetch | snapshot => exact iff_of_true rfl trivial
  | verdict => exact isSome_bind_iff (Verdict.ofCode_isSome _) fun _ => isSome_bind_some (bitOfCode_isSome _)
  | vacate => exact isSome_bind_some (rankOfCode_isSome _)
  | claim => rw [readPayload, Option.isSome_map]; exact readClaim_isSome p
  | entry => exact isSome_bind_iff (EntryKind.ofCode_isSome _) fun _ => isSome_ite _
  | beacon =>
      have read : (readPayload .beacon p).isSome ↔ fieldAt p 10 1 ≤ 4 ∧ fieldAt p 60 1 ≤ 3 ∧ fieldAt p 15 1 ≤ 2 :=
        isSome_bind_iff (readIdentityFields_isSome p) fun _ =>
          isSome_bind_iff (AccountState.ofCode_isSome _) fun _ => isSome_ite _
      exact read.trans (and_congr_right' and_comm)
  | join => rw [readPayload, Option.isSome_map]; exact readIdentityFields_isSome p
  | state =>
      have claims := readClaims_isSome (fieldAt p 16 1) (p.drop 17)
      simp only [fieldAt_drop, ← Nat.add_assoc] at claims
      exact isSome_bind_iff (readIdentityFields_isSome p) fun _ =>
        isSome_bind_iff (AccountState.ofCode_isSome _) fun _ => isSome_bind_some claims

/-! ## The kind of a payload that is read -/

/-- Whatever can be read here is of kind `k`. -/
def OfKind (k : FrameKind) (o : Option Payload) : Prop := ∀ q, o = some q → q.kind = k

section
variable {k : FrameKind} {α : Type}

theorem ofKind_some {q : Payload} (h : q.kind = k) : OfKind k (some q) := fun _ e => Option.some.inj e ▸ h

theorem ofKind_bind (o : Option α) {g : α → Option Payload} (h : ∀ a, OfKind k (g a)) : OfKind k (o >>= g) := by
  cases o with
  | none => nofun
  | some a => exact h a

theorem ofKind_map (o : Option α) {g : α → Payload} (h : ∀ a, (g a).kind = k) : OfKind k (o.map g) := by
  cases o with
  | none => nofun
  | some a => exact ofKind_some (h a)

theorem ofKind_ite {P : Prop} [Decidable P] {q : Payload} (h : q.kind = k) : OfKind k (if P then some q else none) := by
  split
  · exact ofKind_some h
  · nofun

end

theorem readPayload_ofKind (k : FrameKind) (p : List Byte) : OfKind k (readPayload k p) := by
  cases k with
  | release | gap | gone | fetch | snapshot => exact ofKind_some rfl
  | verdict => exact ofKind_bind _ fun _ => ofKind_bind _ fun _ => ofKind_some rfl
  | vacate => exact ofKind_bind _ fun _ => ofKind_some rfl
  | claim | join => exact ofKind_map _ fun _ => rfl
  | entry => exact ofKind_bind _ fun _ => ofKind_ite rfl
  | beacon => exact ofKind_bind _ fun _ => ofKind_bind _ fun _ => ofKind_ite rfl
  | state => exact ofKind_bind _ fun _ => ofKind_bind _ fun _ => ofKind_bind _ fun _ => ofKind_some rfl

/-! ## The first test: stop bits, start, kind, destination, length and end -/

/-- The length a kind calls for (R206). -/
def FrameKind.size (k : FrameKind) (p : List Byte) : Nat :=
  match k with
  | .verdict => 4
  | .release => 2
  | .vacate => 1
  | .claim => 13
  | .entry => if fieldAt p 4 1 = 0 then 17 else 13
  | .gap => 4
  | .gone => 4
  | .fetch => 2
  | .snapshot => 38
  | .beacon => 61
  | .join => 11
  | .state => 17 + 13 * fieldAt p 16 1

theorem lengthAllowed_iff (k : FrameKind) (p : List Byte) :
    lengthAllowed k p = true ↔ p.length = k.size p ∧ (k = .state → fieldAt p 16 1 ≤ 2) := by
  cases k with
  | state => simp [lengthAllowed, FrameKind.size, and_comm]
  | entry => by_cases draw : fieldAt p 4 1 = 0 <;> simp [lengthAllowed, FrameKind.size, draw]
  | _ => simp [lengthAllowed, FrameKind.size]

/-- The first test of R156, for the kind `k`, on the characters `c0`, `c1`, `c2`, `c3` and `rest`. -/
def WellFramed (w : WireFrame) (c0 c1 c2 c3 : Byte) (rest : List Byte) (k : FrameKind) : Prop :=
  w.stopBitsGood = true ∧ c0 = 0xAA#8 ∧ k.classCode = (c1.toNat / 64, c1.toNat % 8) ∧
    (c2 = 0xFF#8 ∨ c2.toNat < 8) ∧ (rest.take c3.toNat).length = k.size (rest.take c3.toNat) ∧
    (k = .state → fieldAt (rest.take c3.toNat) 16 1 ≤ 2) ∧ ∃ a b, rest = rest.take c3.toNat ++ [a, b, 0x7E#8]

/-- The payload, two characters of check and the end delimiter, and nothing else. -/
theorem ends_iff (n : Nat) (rest : List Byte) :
    rest.length = n + 3 ∧ rest.drop (n + 2) = [0x7E#8] ↔ ∃ a b, rest = rest.take n ++ [a, b, 0x7E#8] := by
  rw [← List.drop_drop]
  constructor
  · rintro ⟨length, ends⟩
    have three : (rest.drop n).length = 3 := by rw [List.length_drop]; omega
    match tail : rest.drop n, three with
    | [a, b, c], _ =>
      rw [tail] at ends
      cases ends
      exact ⟨a, b, by rw [← tail, List.take_append_drop]⟩
  · rintro ⟨a, b, whole⟩
    have length := congrArg List.length whole
    rw [List.length_append, List.length_take] at length
    have tail : rest.drop n = [a, b, 0x7E#8] :=
      List.append_cancel_left ((List.take_append_drop n rest).trans whole)
    refine ⟨?_, by rw [tail]; rfl⟩
    change rest.length = min n rest.length + 3 at length
    omega

section
variable {w : WireFrame} {c0 c1 c2 c3 : Byte} {rest : List Byte} {k : FrameKind}

/-- The first test as `testFrame` makes it. -/
theorem wellFramed_iff : WellFramed w c0 c1 c2 c3 rest k ↔
    FrameKind.ofClassCode (c1.toNat / 64) (c1.toNat % 8) = some k ∧ (Dest.ofByte c2).isSome ∧
      (w.stopBitsGood && c0 == 0xAA#8 && rest.length == c3.toNat + 3 && rest.drop (c3.toNat + 2) == [0x7E#8] &&
        lengthAllowed k (rest.take c3.toNat)) = true := by
  simp only [WellFramed, FrameKind.ofClassCode_eq_some_iff, Dest.ofByte_isSome, Bool.and_eq_true, beq_iff_eq,
    lengthAllowed_iff, ← ends_iff]
  constructor
  · rintro ⟨stops, start, kind, dest, size, claims, length, ends⟩
    exact ⟨kind, dest, ⟨⟨⟨stops, start⟩, length⟩, ends⟩, size, claims⟩
  · rintro ⟨kind, dest, ⟨⟨⟨stops, start⟩, length⟩, ends⟩, size, claims⟩
    exact ⟨stops, start, kind, dest, size, claims, length, ends⟩

theorem testFrame_wellFramed (chars : w.chars = c0 :: c1 :: c2 :: c3 :: rest) (h : WellFramed w c0 c1 c2 c3 rest k) :
    ∃ d, Dest.ofByte c2 = some d ∧ testFrame w =
      testContents c1 c2 c3 k d (rest.take c3.toNat) ((rest.drop c3.toNat).take 2) := by
  obtain ⟨kind, dest, framed⟩ := wellFramed_iff.mp h
  obtain ⟨d, dest⟩ := Option.isSome_iff_exists.mp dest
  refine ⟨d, dest, ?_⟩
  unfold testFrame
  rw [chars]
  dsimp only
  rw [kind, dest]
  exact if_pos framed

theorem testFrame_notFramed (chars : w.chars = c0 :: c1 :: c2 :: c3 :: rest)
    (h : ∀ k, ¬WellFramed w c0 c1 c2 c3 rest k) : testFrame w = .framing := by
  unfold testFrame
  rw [chars]
  dsimp only
  split
  case h_1 k d kind dest =>
    refine if_neg fun framed => h k (wellFramed_iff.mpr ⟨kind, ?_, framed⟩)
    rw [dest]
    rfl
  case h_2 => rfl

theorem testFrame_short (short : w.chars.length < 4) : testFrame w = .framing := by
  unfold testFrame
  split
  case h_1 chars =>
    rw [chars] at short
    exact absurd short (by simp)
  case h_2 => rfl

/-! ## The second and the third test -/

theorem testContents_badCheck {d : Dest} {payload check : List Byte} (h : checkBytes (c1 :: c2 :: c3 :: payload) ≠ check) :
    testContents c1 c2 c3 k d payload check = .check :=
  if_neg h

theorem testContents_outOfRange {d : Dest} {payload check : List Byte}
    (agrees : checkBytes (c1 :: c2 :: c3 :: payload) = check) (h : ¬k.InRange payload) :
    testContents c1 c2 c3 k d payload check = .framing := by
  have unread : readPayload k payload = none :=
    Option.not_isSome_iff_eq_none.mp (mt (readPayload_isSome k payload).mp h)
  refine (if_pos agrees).trans ?_
  rw [unread]

theorem testContents_good {d : Dest} {payload check : List Byte}
    (agrees : checkBytes (c1 :: c2 :: c3 :: payload) = check) (h : k.InRange payload) :
    ∃ f : Frame, testContents c1 c2 c3 k d payload check = .good f ∧ f.payload.kind = k ∧
      f.origin.val = c1.toNat / 8 % 8 ∧ f.dest = d := by
  obtain ⟨q, read⟩ := Option.isSome_iff_exists.mp ((readPayload_isSome k payload).mpr h)
  refine ⟨⟨⟨c1.toNat / 8 % 8, by omega⟩, d, q⟩, (if_pos agrees).trans ?_, readPayload_ofKind k payload q read, rfl, rfl⟩
  rw [read]

/-- What the second and the third test make of a frame that passed the first. -/
theorem testFrame_contents (chars : w.chars = c0 :: c1 :: c2 :: c3 :: rest) (h : WellFramed w c0 c1 c2 c3 rest k) :
    let payload := rest.take c3.toNat
    let agrees := (rest.drop c3.toNat).take 2 = checkBytes (c1 :: c2 :: c3 :: payload)
    (¬agrees → testFrame w = .check) ∧ (agrees → ¬k.InRange payload → testFrame w = .framing) ∧
      (agrees → k.InRange payload → ∃ f : Frame, testFrame w = .good f ∧ f.payload.kind = k ∧
        f.origin.val = c1.toNat / 8 % 8 ∧ f.dest.byte = c2) := by
  obtain ⟨d, dest, contents⟩ := testFrame_wellFramed chars h
  dsimp only
  rw [contents]
  refine ⟨fun no => testContents_badCheck (Ne.symm no), fun agrees => testContents_outOfRange agrees.symm,
    fun agrees ranges => ?_⟩
  obtain ⟨f, good, kind, origin, rfl⟩ := testContents_good (d := d) agrees.symm ranges
  exact ⟨f, good, kind, origin, (Dest.ofByte_eq_some_iff c2 f.dest).mp dest⟩

end

end Sys2Proof.Machine
end

section
/-! PROOFS. A frame that ends: what the station state lets through to the tests, and what becomes of a frame by the test it
fails, its destination and the receive buffers (R150, R156 to R158; logs 9, 27). -/

namespace Sys2Proof.Machine

section
variable {s : State} {w : WireFrame} {f : Frame}

/-! ## The noise of a frame and the receive buffers (R157, R158) -/

/-- The state with a frame's noise counted, if it was noisy. -/
def State.noted (noisy : Bool) (s : State) : State := if noisy then s.countLink .noise else s

@[simp] theorem noted_joined (noisy : Bool) (s : State) : (s.noted noisy).joined = s.joined := by cases noisy <;> rfl
@[simp] theorem noted_rxA (noisy : Bool) (s : State) : (s.noted noisy).link.rxA = s.link.rxA := by cases noisy <;> rfl
@[simp] theorem noted_rxB (noisy : Bool) (s : State) : (s.noted noisy).link.rxB = s.link.rxB := by cases noisy <;> rfl

theorem storeFrame_free (a : s.link.rxA = none) (b : s.link.rxB = none) :
    s.storeFrame f = { s with link := { s.link with rxA := some ⟨f, 0⟩ } } := by
  unfold State.storeFrame
  rw [a, b]

theorem storeFrame_freeA {y : HeldFrame} (a : s.link.rxA = none) (b : s.link.rxB = some y) :
    s.storeFrame f = { s with link := { s.link with rxA := some ⟨f, y.order + 1⟩ } } := by
  unfold State.storeFrame
  rw [a, b]

theorem storeFrame_freeB {x : HeldFrame} (a : s.link.rxA = some x) (b : s.link.rxB = none) :
    s.storeFrame f = { s with link := { s.link with rxB := some ⟨f, x.order + 1⟩ } } := by
  unfold State.storeFrame
  rw [a, b]

theorem storeFrame_overrun {x y : HeldFrame} (a : s.link.rxA = some x) (b : s.link.rxB = some y) :
    s.storeFrame f = s.countLink .overrun := by
  unfold State.storeFrame
  rw [a, b]

/-! ## The destination (R157) -/

theorem addressed_iff (s : State) (d : Dest) :
    s.addressed d = true ↔ d = .all ∨ (d = .rank s.own ∧ s.roster.config ≠ none) := by
  cases d with
  | all => exact iff_of_true rfl (.inl rfl)
  | rank r => simp [State.addressed, and_comm, Option.isSome_iff_ne_none]

theorem not_addressed {d : Dest} {r : Rank} (names : d = .rank r) (h : r ≠ s.own ∨ s.roster.config = none) :
    ¬s.addressed d = true := by
  rw [addressed_iff, names]
  rintro (all | ⟨own, configured⟩)
  · cases all
  · cases own
    exact h.elim (absurd rfl) configured

theorem acceptFrame_elsewhere (noisy : Bool) (h : ¬s.addressed f.dest = true) : s.acceptFrame f noisy = s :=
  if_neg h

theorem acceptFrame_addressed (noisy : Bool) (h : s.addressed f.dest = true) : s.acceptFrame f noisy =
    if s.joined then (s.noted noisy).storeFrame f else s.noted noisy := by
  rw [← noted_joined noisy s]
  exact if_pos h

/-! ## FRAME_END (R150, R156) -/

theorem exec_frameEnd_offline (h : s.roster.state = .offline) : exec (.frameEnd w) s = .next s := by
  refine if_pos ?_
  rw [(isOn_false_iff s).mpr h]
  rfl

/-- A station that is on finds the line taken; LOADING, or a start that was not seen, ends it there. -/
theorem exec_frameEnd_untested (on : s.roster.state ≠ .offline) (h : s.roster.state = .loading ∨ w.fromStart = false) :
    exec (.frameEnd w) s = .next s.lineTaken := by
  refine (if_neg ?_).trans (if_pos h)
  rw [(isOn_iff s).mpr on]
  decide

theorem exec_frameEnd_loading (h : s.roster.state = .loading) : exec (.frameEnd w) s =
    .next { s with link := { s.link with sending := .idle, lineIdle := false } } := by
  have on : s.roster.state ≠ .offline := by rw [h]; decide
  have joins : s.roster.state ≠ .isolated := by rw [h]; decide
  rw [exec_frameEnd_untested on (.inl h), lineTaken_keepsQueue joins]

theorem exec_frameEnd_tested (on : s.roster.state ≠ .offline) (loaded : s.roster.state ≠ .loading)
    (seen : w.fromStart = true) : exec (.frameEnd w) s = .next (s.lineTaken.receive w) := by
  refine (if_neg ?_).trans (if_neg ?_)
  · rw [(isOn_iff s).mpr on]
    decide
  · rw [seen]
    exact not_or.mpr ⟨loaded, by decide⟩

theorem receive_framing (h : testFrame w = .framing) : s.receive w = s.countLink .framing := by
  unfold State.receive
  rw [h]

theorem receive_check (h : testFrame w = .check) : s.receive w = s.countLink .check := by
  unfold State.receive
  rw [h]

theorem receive_good (h : testFrame w = .good f) : s.receive w = s.acceptFrame f w.noisy := by
  unfold State.receive
  rw [h]

theorem receive_elsewhere {r : Rank} (good : testFrame w = .good f) (names : f.dest = .rank r)
    (h : r ≠ s.own ∨ s.roster.config = none) : s.receive w = s := by
  rw [receive_good good, acceptFrame_elsewhere _ (not_addressed names h)]

theorem receive_isolated (good : testFrame w = .good f) (here : s.addressed f.dest = true)
    (isolated : s.roster.state = .isolated) : s.receive w = s.noted w.noisy := by
  rw [receive_good good, acceptFrame_addressed _ here, notJoined_of_isolated isolated]
  rfl

theorem receive_joined (good : testFrame w = .good f) (here : s.addressed f.dest = true)
    (joined : s.joined = true) : s.receive w = (s.noted w.noisy).storeFrame f := by
  rw [receive_good good, acceptFrame_addressed _ here, if_pos joined]

/-- A station that takes or only tests frames is on and past LOADING. -/
theorem tests_of_joined_or_isolated (h : s.joined = true ∨ s.roster.state = .isolated) :
    s.roster.state ≠ .offline ∧ s.roster.state ≠ .loading := by
  rw [joined_iff] at h
  rcases h with (listening | active) | isolated
  · rw [listening]; decide
  · rw [active]; decide
  · rw [isolated]; decide

end

/-- Settles O16: what passes to the tests, the outcome by the test, the destination and the buffers; then the tests. -/
theorem frameEndCountsOrStores : Obligations.FrameEndCountsOrStores := by
  refine ⟨fun s w tests => ?_, fun s w => ⟨exec_frameEnd_loading, exec_frameEnd_offline⟩, fun w => testFrame_short,
    fun w c0 c1 c2 c3 rest chars => ⟨testFrame_notFramed chars, fun k => testFrame_contents chars⟩⟩
  obtain ⟨on, loaded⟩ := tests_of_joined_or_isolated tests
  refine ⟨fun missed => exec_frameEnd_untested on (.inr missed), fun seen => ?_⟩
  have tested {t : State} (received : s.lineTaken.receive w = t) : exec (.frameEnd w) s = .next t :=
    (exec_frameEnd_tested on loaded seen).trans (congrArg Host.Outcome.next received)
  refine ⟨fun bad => tested (receive_framing bad), fun bad => tested (receive_check bad),
    fun f r good names elsewhere => tested (receive_elsewhere good names elsewhere), fun f good names => ?_⟩
  have here : s.lineTaken.addressed f.dest = true := (addressed_iff s.lineTaken f.dest).mpr names
  refine ⟨fun isolated => tested (receive_isolated good here isolated), fun joined => ?_⟩
  have stored {t : State} (h : (s.lineTaken.noted w.noisy).storeFrame f = t) : exec (.frameEnd w) s = .next t :=
    tested ((receive_joined good here joined).trans h)
  have a : (s.lineTaken.noted w.noisy).link.rxA = s.link.rxA := noted_rxA ..
  have b : (s.lineTaken.noted w.noisy).link.rxB = s.link.rxB := noted_rxB ..
  exact ⟨fun noA noB => stored (storeFrame_free (a.trans noA) (b.trans noB)),
    fun y noA hasB => stored (storeFrame_freeA (a.trans noA) (b.trans hasB)),
    fun x hasA noB => stored (storeFrame_freeB (a.trans hasA) (b.trans noB)),
    fun x y hasA hasB => stored (storeFrame_overrun (a.trans hasA) (b.trans hasB))⟩

end Sys2Proof.Machine
end

section
/-! PROOFS. The state after reset, and the table of the station states (R4, R30, R165, R166, R208; logs 4, 5, 30, 53). -/

namespace Sys2Proof.Machine

/-! ## The state after reset -/

/-- The checks that stand in the blank array are those of its areas' bytes (R208). -/
theorem crc16_blankAreas : crc16 (List.replicate 8 0) = 0x313E#16 ∧ crc16 (List.replicate 48 0) = 0xDF9D#16 := by
  decide +kernel

theorem blank_eq : FlashArray.blank =
    ⟨[], .of (List.replicate 8 0), .of (List.replicate 48 0), .of (List.replicate 8 0)⟩ := by
  obtain ⟨short, long⟩ := crc16_blankAreas
  unfold StoredArea.of
  rw [short, long]
  rfl

theorem reset_sound : State.reset.Sound where
  tied := rfl
  stale := rfl
  queue := Nat.zero_le _
  rising := List.Pairwise.nil
  contexts := List.forall_mem_nil _
  loops := Nat.zero_le _
  jobs := Nat.zero_le _
  queued := List.forall_mem_nil _
  retained := Nat.zero_le _
  holding := Nat.zero_le _
  bounded := bounded_empty _ _

theorem reset_formed : State.reset.Formed := ⟨reset_pagesWf, of_none, of_none, of_none, not_erasing nofun⟩

/-- Settles O3: soundness, the array's form, and the blocks one by one. -/
theorem resetStateIsSound : Obligations.ResetStateIsSound :=
  ⟨⟨reset_sound, reset_formed⟩, rfl, rfl, rfl, rfl, rfl, rfl, rfl, rfl, rfl, rfl, rfl, blank_eq, rfl, rfl, rfl, rfl⟩

/-! ## The table of the station states (R165) -/

/-- Settles O6: a command that is carried keeps the station state, and each of the others changes it by its row. -/
theorem stationStateFollowsItsTable : Obligations.StationStateFollowsItsTable := by
  intro c s t answers changed
  have answer {u : State} (h : exec c s = .next u) : t = u := Host.Outcome.next.inj (answers.symm.trans h)
  rcases exec_cases c s with ⟨u, hu, carried⟩ | rfl | rfl | rfl | rfl | rfl | ⟨k, rfl⟩ | ⟨n, l, rfl⟩
  · exact absurd (answer hu ▸ carried.station) changed
  · exact .inl ⟨.inl rfl, answer (u := s.resetTo .powerOn) rfl ▸ resetTo_state _ s⟩
  · exact .inl ⟨.inr rfl, answer (u := s.resetTo s.resetCause) rfl ▸ resetTo_state _ s⟩
  · obtain ⟨u, hu, -, -, row⟩ := resetReleased_runs s
    rw [answer hu] at changed ⊢
    exact .inr (.inl ⟨rfl, row.resolve_left changed⟩)
  · obtain ⟨u, hu, -, -, row⟩ := startUpScanEnd_runs s
    rw [answer hu] at changed ⊢
    exact .inr (.inr (.inl ⟨rfl, row.resolve_left changed⟩))
  · obtain ⟨u, hu, -, -, row⟩ := joinWindowExpiry_runs s
    rw [answer hu] at changed ⊢
    exact .inr (.inr (.inr (.inl ⟨rfl, row.resolve_left changed⟩)))
  · obtain ⟨-, -, row⟩ := dispatch_isolates k s
    rw [answer (exec_command k s)] at changed ⊢
    exact .inr (.inr (.inr (.inr ⟨⟨k, rfl⟩, row.resolve_left changed⟩)))
  · obtain ⟨u, hu, -, same⟩ := loadProgram_runs n l s
    exact absurd (answer hu ▸ same) changed

end Sys2Proof.Machine
end

section
/-! PROOFS. The Roster's test of a dispatched frame, the record of a rank whose frame is taken, and a rank that falls
silent (R25, R51, R168 to R172; log 26). -/

namespace Sys2Proof.Machine

/-! ## Frames that end their dispatch (R169 to R171) -/

section
variable {s t : State} {i : BufferId} {f : Frame} {id : Identity}

/-- A dispatched frame that the Roster does not let go on leaves the Roster's own effect. -/
theorem exec_of_stopped (joined : s.joined = true) (oldest : s.link.oldest = some (i, f))
    (test : s.rosterTest f = (t, false)) : exec f.payload.kind.command s = .next (t.freeRx i).finish := by
  rw [exec_command, dispatch_of_stopped joined oldest test rfl]

theorem rosterTest_own (h : f.origin = s.own) : s.rosterTest f = (s.clash, false) := if_pos h

theorem rosterTest_digest (foreign : f.origin ≠ s.own) (identity : f.payload.identity? = some id)
    (h : id.digest ≠ s.roster.digest) : s.rosterTest f = (s.mismatch f.origin, false) := by
  unfold State.rosterTest
  rw [identity]
  exact (if_neg foreign).trans (if_pos (bne_iff_ne.mpr h))

/-- A second module that answers to a live rank. -/
theorem rosterTest_twin (foreign : f.origin ≠ s.own) (identity : f.payload.identity? = some id)
    (digest : id.digest = s.roster.digest) (live : s.roster.peers[f.origin].live = true)
    (h : s.roster.peers[f.origin].uniqueId ≠ some id.uniqueId) : s.rosterTest f = (s, false) := by
  unfold State.rosterTest
  rw [identity]
  refine (if_neg foreign).trans ((if_neg ?_).trans (if_pos ?_))
  · exact mt bne_iff_ne.mp (not_not_intro digest)
  · exact Bool.and_eq_true_iff.mpr ⟨live, bne_iff_ne.mpr h⟩

theorem rosterTest_excluded (foreign : f.origin ≠ s.own) (identity : f.payload.identity? = none)
    (h : s.roster.peers[f.origin].excluded = true) : s.rosterTest f = (s, false) := by
  unfold State.rosterTest
  rw [identity]
  refine (if_neg foreign).trans ((if_neg Bool.false_ne_true).trans ((if_neg Bool.false_ne_true).trans (if_pos ?_)))
  exact Bool.and_eq_true_iff.mpr ⟨h, rfl⟩

theorem clash_listening (h : s.roster.state = .listening) : s.clash = s.enterIsolated .rankClash := if_pos h

theorem clash_first (h : s.roster.state = .active) (no : s.roster.clashed = false) :
    s.clash = ({ s with roster := { s.roster with clashed := true } } : State).raise .peerChange := by
  unfold State.clash
  rw [h, no]
  rfl

theorem clash_again (h : s.roster.state = .active) (yes : s.roster.clashed = true) : s.clash = s := by
  unfold State.clash
  rw [h, yes]
  rfl

theorem mismatch_listening (r : Rank) (h : s.roster.state = .listening) :
    s.mismatch r = s.enterIsolated .digestMismatch := if_pos h

theorem mismatch_active (r : Rank) (h : s.roster.state = .active) : s.mismatch r = s.exclude r := by
  unfold State.mismatch
  rw [h]
  rfl

theorem exclude_silent {r : Rank} (h : s.roster.peers[r].live = false) : s.exclude r =
    if s.roster.peers[r].excluded then s
    else (s.setPeer r { s.roster.peers[r] with excluded := true }).raise .peerChange :=
  if_neg (Bool.eq_false_iff.mp h)

theorem exclude_live {r : Rank} (h : s.roster.peers[r].live = true) : s.exclude r =
    (if s.roster.peers[r].excluded then s
      else (s.setPeer r { s.roster.peers[r] with excluded := true }).raise .peerChange).depart r := if_pos h

end

/-- Settles O18: the four tests of R169 in their order, each with the Roster's effect by the station state. -/
theorem rosterEndsTheDispatch : Obligations.RosterEndsTheDispatch := by
  intro s i f joined oldest ends p
  have stops {t u : State} (test : s.rosterTest f = (t, false)) (ht : t = u) : ends u :=
    exec_of_stopped joined oldest (ht ▸ test)
  refine ⟨fun own l => stops (rosterTest_own own) (clash_listening l),
    fun own a no => stops (rosterTest_own own) (clash_first a no),
    fun own a yes => stops (rosterTest_own own) (clash_again a yes), fun id foreign identity alien => ?_,
    fun id foreign identity digest live other => stops (rosterTest_twin foreign identity digest live other) rfl,
    fun foreign identity out => stops (rosterTest_excluded foreign identity out) rfl⟩
  have mismatches {u : State} : s.mismatch f.origin = u → ends u := stops (rosterTest_digest foreign identity alien)
  have excludes {u : State} (a : s.roster.state = .active) (h : s.exclude f.origin = u) : ends u :=
    mismatches ((mismatch_active _ a).trans h)
  refine ⟨fun l => mismatches (mismatch_listening _ l), fun a silent out => excludes a ?_,
    fun a silent counted => excludes a ?_, fun a live => excludes a (exclude_live live)⟩
  · exact (exclude_silent silent).trans (if_pos out)
  · exact (exclude_silent silent).trans (if_neg (Bool.eq_false_iff.mp counted))

/-! ## The record of a rank whose frame is taken (R168, R169, R172) -/

section
variable {p : Payload} {r : Peer} {id : Identity}

theorem Peer.hear_plain (now : Time) (limit : Nat) (h : p.identity? = none) :
    r.hear now limit p = { r with lastHeard := some now, silence := some ⟨now, limit⟩ } := by
  unfold Peer.hear; rw [h]

theorem Peer.hear_identity (now : Time) (limit : Nat) (h : p.identity? = some id) :
    r.hear now limit p = { r with
      lastHeard := some now
      silence := some ⟨now, limit⟩
      uniqueId := some id.uniqueId
      state := some id.state
      account := p.account?.orElse fun _ => r.account
      beacon := p.beacon?.orElse fun _ => r.beacon
      excluded := false } := by
  unfold Peer.hear; rw [h]

theorem Peer.hear_live (now : Time) (limit : Nat) : (r.hear now limit p).live = r.live := by
  unfold Peer.hear; split <;> rfl

theorem Peer.hear_heard (now : Time) (limit : Nat) :
    (r.hear now limit p).lastHeard = some now ∧ (r.hear now limit p).silence = some ⟨now, limit⟩ := by
  unfold Peer.hear; split <;> exact ⟨rfl, rfl⟩

end

theorem StationState.showsLive_iff (x : StationState) : x.showsLive = true ↔ x = .listening ∨ x = .active := by
  cases x <;> decide

/-- The record of a frame's origin as the frame leaves it, but for its live mark. -/
def State.heardPeer (f : Frame) (s : State) : Peer :=
  (s.roster.peers[f.origin]).hear s.time.clock (3 * s.conf.beaconPeriod) f.payload

/-- A record set is the record read. -/
theorem setPeer_peer (s : State) (r : Rank) (q : Peer) : (s.setPeer r q).roster.peers[r] = q :=
  Vector.getElem_set_self _

section
variable {s : State} {f : Frame}

/-- The frame makes its origin live (R172). -/
theorem heard_joins (shows : f.payload.showsLive = true) (silent : s.roster.peers[f.origin].live = false) :
    s.heard f = (s.setPeer f.origin { s.heardPeer f with live := true }).raise .peerChange := by
  refine if_pos ?_
  rw [shows, Peer.hear_live, silent]
  rfl

theorem heard_stays (h : f.payload.showsLive = false ∨ s.roster.peers[f.origin].live = true) :
    s.heard f = s.setPeer f.origin (s.heardPeer f) := by
  refine if_neg ?_
  rw [Peer.hear_live]
  rcases h with no | live
  · rw [no]; exact Bool.false_ne_true
  · rw [live, Bool.and_comm]; exact Bool.false_ne_true

/-- A frame makes its origin live, with PEER_CHANGE, or leaves the live mark as it was. -/
theorem heard_cases (s : State) (f : Frame) :
    (f.payload.showsLive = true ∧ s.roster.peers[f.origin].live = false ∧
      s.heard f = (s.setPeer f.origin { s.heardPeer f with live := true }).raise .peerChange) ∨
    ((f.payload.showsLive = false ∨ s.roster.peers[f.origin].live = true) ∧
      s.heard f = s.setPeer f.origin (s.heardPeer f)) := by
  cases shows : f.payload.showsLive with
  | false => exact .inr ⟨.inl rfl, heard_stays (.inl shows)⟩
  | true =>
    cases live : s.roster.peers[f.origin].live with
    | true => exact .inr ⟨.inr rfl, heard_stays (.inr live)⟩
    | false => exact .inl ⟨rfl, rfl, heard_joins shows live⟩

/-- The record of the origin after the frame: all but the live mark is what the frame leaves. -/
theorem heard_peer (s : State) (f : Frame) :
    (s.heard f).roster.peers[f.origin] =
      { s.heardPeer f with live := (s.heard f).roster.peers[f.origin].live } := by
  rcases heard_cases s f with ⟨-, -, h⟩ | ⟨-, h⟩ <;> rw [h]
  · rw [raise_roster, setPeer_peer]
  · rw [setPeer_peer]

/-- Hearing a frame writes the record of its origin. -/
theorem heard_eq (s : State) (f : Frame) : s.heard f = { s with
    roster := { s.roster with peers := s.roster.peers.set f.origin (s.heard f).roster.peers[f.origin] }
    port := (s.heard f).port } := by
  rcases heard_cases s f with ⟨-, -, h⟩ | ⟨-, h⟩ <;> rw [h]
  · rw [raise_roster, setPeer_peer]; rfl
  · rw [setPeer_peer]; rfl

theorem showsLive_of_identity {p : Payload} {id : Identity} (h : p.identity? = some id) :
    p.showsLive = true ↔ id.state = .listening ∨ id.state = .active := by
  unfold Payload.showsLive
  rw [h]
  exact id.state.showsLive_iff

/-- What a frame that makes its origin live changes besides. -/
theorem heard_joins_live (shows : f.payload.showsLive = true) (silent : s.roster.peers[f.origin].live = false) :
    (s.heard f).roster.peers[f.origin].live = true ∧
      (s.heard f).port = { s.port with flags := { s.port.flags with peerChange := true } } := by
  rw [heard_joins shows silent, raise_roster, setPeer_peer]
  exact ⟨rfl, rfl⟩

theorem heard_stays_live (h : f.payload.showsLive = false ∨ s.roster.peers[f.origin].live = true) :
    (s.heard f).roster.peers[f.origin].live = s.roster.peers[f.origin].live ∧ (s.heard f).port = s.port := by
  rw [heard_stays h, setPeer_peer]
  exact ⟨Peer.hear_live _ _, rfl⟩

end

/-- Settles O19: the record by whether the frame carries an identity, and the live mark by what it shows. -/
theorem takenFrameIsRecorded : Obligations.TakenFrameIsRecorded := by
  intro s f p u q
  have record : q = { s.heardPeer f with live := q.live } := heard_peer s f
  obtain ⟨now, silence⟩ := p.hear_heard (p := f.payload) s.time.clock (3 * s.conf.beaconPeriod)
  have heardNow : q.lastHeard = some s.time.clock := (congrArg Peer.lastHeard record).trans now
  have restarted : q.silence = some ⟨s.time.clock, 3 * s.conf.beaconPeriod⟩ :=
    (congrArg Peer.silence record).trans silence
  refine ⟨heard_eq s f, heardNow, restarted, fun plain => ?_, fun id identity => ?_⟩
  · have shows : f.payload.showsLive = false := by unfold Payload.showsLive; rw [plain]; rfl
    obtain ⟨live, port⟩ := heard_stays_live (s := s) (.inl shows)
    have written : s.heardPeer f = _ := p.hear_plain _ _ plain
    refine ⟨?_, port⟩
    rw [heardNow, restarted, record, written, live]
  · have written : s.heardPeer f = _ := p.hear_identity _ _ identity
    rw [written] at record
    have shows := showsLive_of_identity identity
    refine ⟨congrArg Peer.uniqueId record, congrArg Peer.state record, congrArg Peer.excluded record,
      fun a carries => (congrArg Peer.account record).trans (by rw [carries]; rfl),
      fun none => (congrArg Peer.account record).trans (by rw [none]; rfl),
      fun b carries => (congrArg Peer.beacon record).trans (by rw [carries]; rfl),
      fun none => (congrArg Peer.beacon record).trans (by rw [none]; rfl), fun live => ?_, fun silent joins => ?_,
      fun silent notListening notActive => ?_⟩
    · obtain ⟨same, port⟩ := heard_stays_live (s := s) (.inr live)
      exact ⟨same.trans live, port⟩
    · exact heard_joins_live (shows.mpr joins) silent
    · have hidden : f.payload.showsLive = false :=
        Bool.eq_false_iff.mpr fun joins => (shows.mp joins).elim notListening notActive
      obtain ⟨same, port⟩ := heard_stays_live (s := s) (.inl hidden)
      exact ⟨same.trans silent, port⟩

/-! ## A silent rank (R25, R51, R172) -/

section
variable {s : State} {r : Rank} {e : ClaimEntry}

theorem departAccount_gap (applying : s.applying = true) (gap : s.account.gaps[r].isSome = true) :
    s.departAccount r = s.beginRebase none := if_pos (Bool.and_eq_true_iff.mpr ⟨applying, gap⟩)

theorem departAccount_plain (h : s.applying = false ∨ s.account.gaps[r] = none) : s.departAccount r = s := by
  refine if_neg fun gone => ?_
  obtain ⟨applying, gap⟩ := Bool.and_eq_true_iff.mp gone
  rcases h with no | closed
  · exact Bool.eq_false_iff.mp no applying
  · exact Option.isSome_iff_ne_none.mp gap closed

theorem exec_silence_of_due {t : Timer} (runs : s.roster.peers[r].silence = some t)
    (due : t.due s.time.clock = true) : exec (.silenceTimerExpiry r) s = .next (s.fallSilent r).finish :=
  congrArg Host.Outcome.next (onExpiry_of_due runs due _)

theorem makeStale_foreign (h : e.origin ≠ r) : e.makeStale r = e := if_neg h

theorem makeStale_prior {p : PriorState} (h : e.origin = r) (prior : e.state.prior? = some p) :
    e.makeStale r = { e with state := .stale p } := by
  unfold ClaimEntry.makeStale; rw [prior]; exact if_pos h

theorem makeStale_kept (h : e.state.prior? = none) : e.makeStale r = e := by
  unfold ClaimEntry.makeStale; rw [h]; exact ite_self _

theorem mapGrants_requesting {f : List GrantSlot → List GrantSlot} {g : List GrantSlot} {n : Nat} {w : Timer}
    (h : e.state = .requesting g n w) : e.mapGrants f = { e with state := .requesting (f g) n w } := by
  unfold ClaimEntry.mapGrants; rw [h]

theorem mapGrants_other {f : List GrantSlot → List GrantSlot} (h : ∀ g n w, e.state ≠ .requesting g n w) :
    e.mapGrants f = e := by
  unfold ClaimEntry.mapGrants
  split
  · next g n w requesting => exact absurd requesting (h g n w)
  · rfl

/-- A departing entry that keeps a state (R25). -/
theorem departed_prior {p : PriorState} (h : e.origin = r) (prior : e.state.prior? = some p) :
    (e.makeStale r).mapGrants (dropRank r) = { e with state := .stale p } := by
  rw [makeStale_prior h prior]; exact mapGrants_other nofun

/-- An entry that a departure leaves as it is. -/
theorem departed_kept (h : e.origin ≠ r ∨ e.state.prior? = none) (other : ∀ g n w, e.state ≠ .requesting g n w) :
    (e.makeStale r).mapGrants (dropRank r) = e := by
  have same : e.makeStale r = e := h.elim makeStale_foreign makeStale_kept
  rw [same, mapGrants_other other]

theorem departed_requesting {g : List GrantSlot} {n : Nat} {w : Timer} (h : e.state = .requesting g n w) :
    (e.makeStale r).mapGrants (dropRank r) = { e with state := .requesting (dropRank r g) n w } := by
  rw [makeStale_kept (by rw [h]; rfl), mapGrants_requesting h]

theorem makeStale_state (r : Rank) (e : ClaimEntry) : e.makeStale r = { e with state := (e.makeStale r).state } := by
  unfold ClaimEntry.makeStale
  split
  · split <;> rfl
  · rfl

theorem mapGrants_state (f : List GrantSlot → List GrantSlot) (e : ClaimEntry) :
    e.mapGrants f = { e with state := (e.mapGrants f).state } := by
  unfold ClaimEntry.mapGrants
  split <;> rfl

/-- A departure changes an entry's state only. -/
theorem departed_state (e : ClaimEntry) (r : Rank) : (e.makeStale r).mapGrants (dropRank r) =
    { e with state := ((e.makeStale r).mapGrants (dropRank r)).state } :=
  (mapGrants_state _ _).trans (congrArg
    (fun x : ClaimEntry => { x with state := ((e.makeStale r).mapGrants (dropRank r)).state }) (makeStale_state r e))

end

/-- Settles O20: the expiry by the live mark and the gap record, and what a departure makes of an entry. -/
theorem silentRankDepartsAndItsEntriesBecomeStale : Obligations.SilentRankDepartsAndItsEntriesBecomeStale := by
  refine ⟨fun s r t runs due => ?_, fun r e => ?_⟩
  · intro p u
    have falls {v : State} (h : s.fallSilent r = v) : exec (.silenceTimerExpiry r) s = .next v.finish :=
      h ▸ exec_silence_of_due runs due
    have departs (live : p.live = true) : s.fallSilent r = u.departAccount r := if_pos live
    exact ⟨fun live applying gap => falls ((departs live).trans (departAccount_gap (s := u) applying gap)),
      fun live no => falls ((departs live).trans (departAccount_plain (s := u) no)),
      fun silent => falls (if_neg (Bool.eq_false_iff.mp silent))⟩
  · intro d
    have becomes {x : ClaimState} (h : d = { e with state := x }) : d.state = x := congrArg ClaimEntry.state h
    have stays (h : d = e) : d.state = e.state := congrArg ClaimEntry.state h
    refine ⟨departed_state e r, fun o h => becomes (departed_prior o (by rw [h]; rfl)),
      fun o h => becomes (departed_prior o (by rw [h]; rfl)), fun o h => becomes (departed_prior o (by rw [h]; rfl)),
      fun p h => ?_, fun h => ?_, fun o other => stays (departed_kept (.inl o) other),
      fun g n w h => becomes (departed_requesting h)⟩
    · exact (stays (departed_kept (.inr (by rw [h]; rfl)) (by rw [h]; nofun))).trans h
    · exact (stays (departed_kept (.inr (by rw [h]; rfl)) (by rw [h]; nofun))).trans h

end Sys2Proof.Machine
end

section
/-! PROOFS. Power-on and the RESET input: the blocks at their reset values, and the array as the operation in flight
leaves it (R166, R178, R194; logs 5, 6). -/

namespace Sys2Proof.Machine

/-! ## What a reset leaves of the operation in flight (R194) -/

theorem tearArray_none {s : State} (h : s.log.op = .none) : s.tearArray = s := by
  unfold State.tearArray; rw [h]

theorem tearArea_frame (w : AreaTarget) (s : State) :
    s.tearArea w = { s with flash := (s.tearArea w).flash, draws := (s.tearArea w).draws } := by
  cases w <;> rfl

theorem tearPage_frame (s : State) :
    s.tearPage = { s with flash := s.tearPage.flash, draws := s.tearPage.draws } := by
  unfold State.tearPage
  split
  · split <;> rfl
  · rfl

/-- Tearing touches the array and the free values drawn only. -/
theorem tearArray_frame (s : State) :
    s.tearArray = { s with flash := s.tearArray.flash, draws := s.tearArray.draws } := by
  unfold State.tearArray
  split
  · rfl
  · exact tearPage_frame s
  · rfl
  · split
    · exact tearArea_frame _ s
    · rfl

/-- What a reset makes of the array: nothing, or what it tears of the operation in flight (R194). -/
theorem tearArray_flash (s : State) : s.tearArray.flash = s.flash ∨
    (∃ p, s.log.op = .program ∧ s.log.writePos = some p ∧
      s.tearArray.flash = { s.flash with pages := putPage p .invalid s.flash.pages }) ∨
    (∃ x offs, s.log.op = .erase x ∧ (∀ o ∈ offs, o < 64) ∧
      s.tearArray.flash = { s.flash with pages := putInvalid x offs s.flash.pages }) ∨
    (∃ flags n a, s.log.op = .areaWrite ∧ s.log.areaWrite = some ⟨.lockTable flags, n⟩ ∧
      s.tearArray.flash = { s.flash with locks := a }) ∨
    ∃ bytes n a, s.log.op = .areaWrite ∧ s.log.areaWrite = some ⟨.config bytes, n⟩ ∧
      s.tearArray.flash = { s.flash with config := a } := by
  unfold State.tearArray
  split
  · exact .inl rfl
  · next op =>
    unfold State.tearPage
    split
    · next p writes =>
      split
      · exact .inr (.inl ⟨p, op, writes, rfl⟩)
      · exact .inl rfl
    · exact .inl rfl
  · next x op =>
    exact .inr (.inr (.inl ⟨x, _, op, fun o torn => List.mem_range.mp (List.mem_filter.mp torn).1, rfl⟩))
  · next op =>
    split
    · next w writes =>
      obtain ⟨target, n⟩ := w
      cases target with
      | lockTable flags => exact .inr (.inr (.inr (.inl ⟨flags, n, _, op, writes, rfl⟩)))
      | config bytes => exact .inr (.inr (.inr (.inr ⟨bytes, n, _, op, writes, rfl⟩)))
    · exact .inl rfl

/-- A reset can make INVALID the page being programmed, and pages of the section being erased. -/
theorem tearArray_pages (s : State) (p : Nat) :
    readPage s.tearArray.flash.pages p = readPage s.flash.pages p ∨
      (readPage s.tearArray.flash.pages p = some .invalid ∧
        ((s.log.op = .program ∧ s.log.writePos = some p) ∨ s.log.op = .erase (sectionOf p))) := by
  rcases tearArray_flash s with same | ⟨q, op, writes, torn⟩ | ⟨x, offs, op, within, torn⟩ | ⟨_, _, _, -, -, torn⟩ |
    ⟨_, _, _, -, -, torn⟩
  · exact .inl (by rw [same])
  · rw [torn]
    by_cases here : p = q
    · subst here
      exact .inr ⟨readPage_putPage_same p .invalid _, .inl ⟨op, writes⟩⟩
    · exact .inl (readPage_putPage_other here .invalid _)
  · rw [torn]
    rcases readPage_putInvalid x p offs s.flash.pages with same | ⟨⟨o, tears, there⟩, invalid⟩
    · exact .inl same
    · have near : o < 64 := within o tears
      have sect : sectionOf p = x := by rw [there]; unfold sectionOf firstPage pagesPerSection; omega
      exact .inr ⟨invalid, .inr (by rw [sect]; exact op)⟩
  · exact .inl (by rw [torn])
  · exact .inl (by rw [torn])

/-- Of the areas a reset can tear the one that is being written. -/
theorem tearArray_areas (s : State) :
    s.tearArray.flash.identity = s.flash.identity ∧
    (s.tearArray.flash.locks = s.flash.locks ∨
      s.log.op = .areaWrite ∧ ∃ flags n, s.log.areaWrite = some ⟨.lockTable flags, n⟩) ∧
    (s.tearArray.flash.config = s.flash.config ∨
      s.log.op = .areaWrite ∧ ∃ bytes n, s.log.areaWrite = some ⟨.config bytes, n⟩) := by
  rcases tearArray_flash s with torn | ⟨_, -, -, torn⟩ | ⟨_, _, -, -, torn⟩ | ⟨flags, n, _, op, writes, torn⟩ |
    ⟨bytes, n, _, op, writes, torn⟩ <;> rw [torn]
  · exact ⟨rfl, .inl rfl, .inl rfl⟩
  · exact ⟨rfl, .inl rfl, .inl rfl⟩
  · exact ⟨rfl, .inl rfl, .inl rfl⟩
  · exact ⟨rfl, .inr ⟨op, flags, n, writes⟩, .inl rfl⟩
  · exact ⟨rfl, .inl rfl, .inr ⟨op, bytes, n, writes⟩⟩

/-! ## The reset (R166) -/

theorem resetTo_eq (c : ResetCause) (s : State) : s.resetTo c = { State.reset with
    roster := .reset c, pins := s.pins, flash := s.tearArray.flash, draws := s.tearArray.draws
    pending := s.pending } := by
  unfold State.resetTo
  rw [tearArray_frame s]

theorem resetCause_eq (s : State) :
    s.resetCause = if s.roster.state = .offline then s.roster.lastReset else .resetInput := by
  unfold State.resetCause
  by_cases off : s.roster.state = .offline
  · rw [(isOn_false_iff s).mpr off, if_pos off]; rfl
  · rw [(isOn_iff s).mpr off, if_neg off]; rfl

/-- Settles O9: both resets by the block, and the array by the operation in flight. -/
theorem resetPutsEveryBlockInItsResetState : Obligations.ResetPutsEveryBlockInItsResetState := by
  refine ⟨fun s => ⟨s.tearArray.flash, s.tearArray.draws, ?_, ?_, fun idle => ?_⟩, fun s t resets => ?_⟩
  · exact congrArg Host.Outcome.next (resetTo_eq .powerOn s)
  · rw [← resetCause_eq]
    exact congrArg Host.Outcome.next (resetTo_eq s.resetCause s)
  · rw [tearArray_none idle]
    exact ⟨rfl, rfl⟩
  · have array : t.flash = s.tearArray.flash := by
      rcases resets with h | h <;> cases h <;> rfl
    rw [array]
    exact ⟨tearArray_pages s, tearArray_areas s⟩

end Sys2Proof.Machine
end

section
/-! PROOFS. The end of the start-up scan, the beacon, the end of the join, the entry to ISOLATED and the RECOVERY claim
(R4, R11, R29, R150, R167, R173, R174, R176, R177; logs 37, 54). -/

namespace Sys2Proof.Machine

/-! ## What the scan leaves alone (R193) -/

/-- A state that differs from another in its account, its ticket counter, its next dip id, its Log Store and its port
only. -/
def OnlyScan (s t : State) : Prop :=
  ∃ account ticket dipId log port, t = { s with
    account := account, roster := { s.roster with ticketCounter := ticket }
    jobs := { s.jobs with nextDipId := dipId }, log := log, port := port }

theorem OnlyScan.trans {s t u : State} (h : OnlyScan s t) (k : OnlyScan t u) : OnlyScan s u := by
  obtain ⟨_, _, _, _, _, rfl⟩ := h
  obtain ⟨_, _, _, _, _, rfl⟩ := k
  exact ⟨_, _, _, _, _, rfl⟩

theorem setLog_onlyScan (l : LogStore) (s : State) : OnlyScan s (s.setLog l) := ⟨_, _, _, _, _, rfl⟩

theorem raise_onlyScan (f : Flag) (s : State) : OnlyScan s (s.raise f) := ⟨_, _, _, _, _, rfl⟩

theorem loadCheckpoint_onlyScan (c : Option RecordBody) (s : State) : OnlyScan s (s.loadCheckpoint c) := by
  unfold State.loadCheckpoint
  split <;> exact ⟨_, _, _, _, _, rfl⟩

theorem lookAhead_onlyScan (x : Nat) (s : State) : OnlyScan s (s.lookAhead x) := by
  unfold State.lookAhead State.enterFull
  split
  · exact (setLog_onlyScan _ s).trans (raise_onlyScan _ _)
  · exact setLog_onlyScan _ s

theorem advanceFrom_onlyScan (p : Nat) (s : State) : OnlyScan s (s.advanceFrom p) := by
  unfold State.advanceFrom
  split
  · exact setLog_onlyScan _ s
  · exact lookAhead_onlyScan _ s

theorem scanAfter_onlyScan (p : Nat) (s : State) : OnlyScan s (s.scanAfter p) := by
  unfold State.scanAfter State.resumeAfter
  split
  · exact (setLog_onlyScan _ s).trans (raise_onlyScan _ _)
  · exact ((setLog_onlyScan _ s).trans (setLog_onlyScan _ _)).trans (advanceFrom_onlyScan _ _)

theorem scanEmpty_onlyScan (s : State) : OnlyScan s s.scanEmpty := by
  unfold State.scanEmpty
  split
  · exact (setLog_onlyScan _ s).trans (raise_onlyScan _ _)
  · split <;> exact setLog_onlyScan _ s

theorem takeScan_onlyScan (s : State) : OnlyScan s s.takeScan := by
  have given (n m : Nat) : OnlyScan s (({ s.loadCheckpoint (newestCheckpoint s.flash.pages) with
      jobs := { (s.loadCheckpoint (newestCheckpoint s.flash.pages)).jobs with nextDipId := n } } : State).setLog
      { (s.loadCheckpoint (newestCheckpoint s.flash.pages)).log with nextSeq := m }) :=
    (loadCheckpoint_onlyScan _ s).trans ⟨_, _, _, _, _, rfl⟩
  unfold State.takeScan
  dsimp only
  split
  · exact (given _ _).trans (scanAfter_onlyScan _ _)
  · exact (given _ _).trans (scanEmpty_onlyScan _)

/-! ## The entry to ISOLATED (R4, R150, R172, R177) -/

theorem sameClaims_nil (l : List ClaimEntry) : sameClaims l [] = l.isEmpty := by
  cases l <;> rfl

/-- PEER_CHANGE raised on a condition. -/
theorem raise_if_eq (b : Bool) (s : State) :
    (if b then s.raise .peerChange else s) =
      { s with port := { s.port with flags := { s.port.flags with peerChange := s.port.flags.peerChange || b } } } := by
  cases b
  · rw [Bool.or_false]; rfl
  · rw [Bool.or_true]; rfl

theorem enterIsolated_eq (why : IsolationReason) (s : State) : s.enterIsolated why = { s with
    roster := { s.roster with
      state := .isolated, isolation := some why, beaconTimer := none, joinWindow := none
      peers := s.roster.peers.map Peer.drop }
    claims := { s.claims with table := [] }
    account := { s.account with committed := 0 }
    jobs := { s.jobs with retestDue := s.jobs.retestDue || !s.claims.table.isEmpty }
    link := { s.link with
      queue := if s.link.sending = .sending then s.link.queue.take 1 else [], rxA := none, rxB := none }
    port := { s.port with flags := { s.port.flags with
      stalePresent := false
      peerChange := s.port.flags.peerChange || s.roster.peers.toList.any (·.live) } } } := by
  unfold State.enterIsolated
  rw [raise_if_eq, ← sameClaims_nil]
  rfl

/-! ## The end of the scan (R167, R174) -/

section
variable {s : State}

theorem exec_scanEnd (loading : s.roster.state = .loading) (scanning : s.log.state = .scanning) :
    exec .startUpScanEnd s = .next s.takeScan.leaveLoading.finish := if_pos ⟨loading, scanning⟩

theorem leaveLoading_identityInvalid (h : s.roster.identity.any (·.checkGood) = false) :
    s.leaveLoading = s.enterIsolated .identityInvalid := by
  unfold State.leaveLoading; rw [h]; rfl

theorem leaveLoading_configInvalid (h : s.roster.identity.any (·.checkGood) = true) (missing : s.roster.config = none) :
    s.leaveLoading = s.enterIsolated .configInvalid := by
  unfold State.leaveLoading; rw [h, missing]; rfl

theorem leaveLoading_sound (h : s.roster.identity.any (·.checkGood) = true) (present : s.roster.config ≠ none) :
    s.leaveLoading = s.enterListening := by
  unfold State.leaveLoading
  rw [h]
  exact if_neg fun missing => present (Option.isNone_iff_eq_none.mp missing)

/-- A queue with room takes the frame at its end. -/
theorem post_queue (d : Dest) (p : Payload) (on : s.joined = true) (room : s.link.queue.length < 8) :
    (s.post d p).link.queue = s.link.queue ++ [⟨s.own, d, p⟩] := by
  rw [post_room d p on room]
  dsimp only
  split
  · exact Link.begin_queue _
  · rfl

@[simp] theorem post_joined (d : Dest) (p : Payload) (s : State) : (s.post d p).joined = s.joined := by
  rw [post_frame]; rfl

/-- A queue with room for three takes three frames in their order. -/
theorem post_queue_three (d : Dest) (p q r : Payload) (on : s.joined = true) (room : s.link.queue.length ≤ 5) :
    (((s.post d p).post d q).post d r).link.queue = s.link.queue ++ [⟨s.own, d, p⟩, ⟨s.own, d, q⟩, ⟨s.own, d, r⟩] := by
  have first := post_queue d p on (by omega)
  have length₁ := congrArg List.length first
  have second := post_queue (s := s.post d p) d q (by rw [post_joined]; exact on) (by simp at length₁; omega)
  have length₂ := congrArg List.length second
  have third := post_queue (s := (s.post d p).post d q) d r (by simp only [post_joined]; exact on)
    (by simp at length₁ length₂; omega)
  rw [third, second, first]
  simp only [post_own, List.append_assoc, List.cons_append, List.nil_append]

/-- The state of a station as it enters LISTENING, before its frames are posted (R174). -/
def State.listening (s : State) : State := { s with roster := { s.roster with
  state := .listening
  beaconTimer := some ⟨s.time.clock, s.conf.beaconPeriod⟩
  joinWindow := some ⟨s.time.clock, 3 * s.conf.beaconPeriod⟩ } }

@[simp] theorem post_identityFields (d : Dest) (p : Payload) (s : State) :
    (s.post d p).identityFields = s.identityFields := by
  unfold State.identityFields; rw [post_roster]

@[simp] theorem post_ownEntries (d : Dest) (p : Payload) (s : State) : (s.post d p).ownEntries = s.ownEntries := by
  unfold State.ownEntries State.isOwn; rw [post_claims, post_own]

@[simp] theorem post_beaconFields (d : Dest) (p : Payload) (s : State) :
    (s.post d p).beaconFields = s.beaconFields := by
  unfold State.beaconFields State.census; rw [post_roster, post_account, post_ownEntries]

/-- The STATE, the JOIN and the BEACON each show the station as it entered LISTENING. -/
theorem enterListening_eq (s : State) : s.enterListening =
    ((s.listening.post .all (.state s.listening.identityFields s.roster.ticketCounter s.account.state
        (s.listening.ownEntries.map ClaimEntry.listed))).post .all (.join s.listening.identityFields)).post .all
      (.beacon s.listening.identityFields s.listening.beaconFields) := by
  have posts : s.enterListening = ((s.listening.postState .all).postJoin).postBeacon := rfl
  rw [posts]
  simp only [State.postBeacon, State.postJoin, State.postState, post_identityFields, post_beaconFields]
  rfl

theorem enterListening_roster (s : State) : s.enterListening.roster = s.listening.roster := by
  rw [enterListening_eq]; simp only [post_roster]

/-- A queue with room for three takes the three frames in their order. -/
theorem enterListening_queue (room : s.link.queue.length ≤ 5) :
    let u := s.enterListening
    u.link.queue = s.link.queue ++
      [⟨s.own, .all, .state u.identityFields u.roster.ticketCounter u.account.state
          (u.ownEntries.map ClaimEntry.listed)⟩,
       ⟨s.own, .all, .join u.identityFields⟩, ⟨s.own, .all, .beacon u.identityFields u.beaconFields⟩] := by
  intro u
  have posts : u = _ := enterListening_eq s
  have identity : u.identityFields = s.listening.identityFields := by rw [posts]; simp only [post_identityFields]
  have beacon : u.beaconFields = s.listening.beaconFields := by rw [posts]; simp only [post_beaconFields]
  have entries : u.ownEntries = s.listening.ownEntries := by rw [posts]; simp only [post_ownEntries]
  have account : u.account = s.account := by rw [posts]; simp only [post_account]; rfl
  have ticket : u.roster.ticketCounter = s.roster.ticketCounter := by rw [enterListening_roster]; rfl
  rw [identity, beacon, entries, account, ticket, posts]
  exact post_queue_three (s := s.listening) .all _ _ _ rfl room

end

/-- Settles O12: the identity's check, the configuration, and the three frames of a sound station. -/
theorem scanEndLeavesLoading : Obligations.ScanEndLeavesLoading := by
  intro s loading scanning
  obtain ⟨_, _, _, _, _, scanned⟩ := takeScan_onlyScan s
  have roster : s.takeScan.roster = { s.roster with ticketCounter := s.takeScan.roster.ticketCounter } := by
    rw [scanned]
  have isolated (why : IsolationReason) : let u := s.takeScan.enterIsolated why
      u.roster.state = .isolated ∧ u.roster.isolation = some why ∧ u.claims.table = [] := by
    rw [enterIsolated_eq]
    exact ⟨rfl, rfl, rfl⟩
  have identity : s.takeScan.roster.identity = s.roster.identity := by rw [roster]
  have config : s.takeScan.roster.config = s.roster.config := by rw [roster]
  refine ⟨_, exec_scanEnd loading scanning, fun bad => ?_, fun good missing => ?_, fun good present => ?_⟩
  · rw [leaveLoading_identityInvalid (identity ▸ bad)]
    exact isolated _
  · rw [leaveLoading_configInvalid (identity ▸ good) (config.trans missing)]
    exact isolated _
  · rw [leaveLoading_sound (identity ▸ good) (config ▸ present), enterListening_roster]
    have time : s.takeScan.time = s.time := by rw [scanned]
    have link : s.takeScan.link = s.link := by rw [scanned]
    have conf : s.takeScan.conf = s.conf := by unfold State.conf; rw [config]
    refine ⟨rfl, ?_, ?_, fun room => ?_⟩
    · rw [← time, ← conf]; rfl
    · rw [← time, ← conf]; rfl
    · have queue := enterListening_queue (s := s.takeScan) (by rw [link]; exact room)
      dsimp only at queue
      rw [enterListening_roster, link, own_congr conf] at queue
      exact queue

/-! ## The beacon and the end of the join (R173, R176) -/

section
variable {s : State}

theorem exec_beaconTimer_of_due {t : Timer} (runs : s.roster.beaconTimer = some t) (due : t.due s.time.clock = true) :
    exec .beaconTimerExpiry s = .next s.beat := congrArg Host.Outcome.next (onExpiry_of_due runs due _)

theorem exec_joinWindow_of_due {t : Timer} (listening : s.roster.state = .listening)
    (runs : s.roster.joinWindow = some t) (due : t.due s.time.clock = true) :
    exec .joinWindowExpiry s = .next s.stopJoinWindow.endJoin.finish :=
  (if_pos listening).trans (congrArg Host.Outcome.next (onExpiry_of_due runs due _))

theorem settleAccount_asks {r : Rank} (h : s.syncedPeer = some r) : s.settleAccount = s.beginRebase none := by
  unfold State.settleAccount; rw [h]; rfl

theorem settleAccount_alone (h : s.syncedPeer = none) :
    s.settleAccount = s.workThrough.setAccountState .synced := by
  unfold State.settleAccount; rw [h]; rfl

theorem OnlyClaims.bothClear {s t : State} (h : OnlyClaims s t) : t.bothClear = s.bothClear := by
  obtain ⟨_, _, _, _, _, rfl⟩ := h
  rfl

theorem setAccountState_onlyClaims (a : AccountState) (s : State) : OnlyClaims s (s.setAccountState a) :=
  ⟨_, _, _, _, _, rfl⟩

theorem fetchFrom_onlyClaims (r : Option Rank) (s : State) : OnlyClaims s (s.fetchFrom r) := by
  unfold State.fetchFrom
  cases r with
  | none => exact setAccount_onlyClaims _ s
  | some r => exact (post_onlyClaims _ _ s).trans (setAccount_onlyClaims _ _)

theorem beginRebase_onlyClaims (r : Option Rank) (s : State) : OnlyClaims s (s.beginRebase r) := by
  have raised : OnlyClaims s (if s.applying then s.raise .accountEvent else s) := by
    split
    · exact raise_onlyClaims _ s
    · exact OnlyClaims.refl s
  exact ((raised.trans (setAccount_onlyClaims _ _)).trans (setAccountState_onlyClaims _ _)).trans
    (fetchFrom_onlyClaims _ _)

theorem chain_onlyClaims (r : Rank) : ∀ (fuel : Nat) (s : State),
    OnlyClaims s (State.chain State.applyInLine r fuel s)
  | 0, s => OnlyClaims.refl s
  | fuel + 1, s => by
    unfold State.chain
    split
    · exact (((setAccount_onlyClaims _ s).trans (applyAmount_onlyClaims _ _)).trans (setApplied_onlyClaims _ _ _)).trans
        (chain_onlyClaims r fuel _)
    · exact OnlyClaims.refl s

theorem workThrough_onlyClaims (s : State) : OnlyClaims s s.workThrough :=
  (OnlyClaims.foldl (fun u r => chain_onlyClaims r _ u) allRanks s).trans (setAccount_onlyClaims _ _)

theorem settleAccount_onlyClaims (s : State) : OnlyClaims s s.settleAccount := by
  unfold State.settleAccount
  split
  · exact beginRebase_onlyClaims _ s
  · exact (workThrough_onlyClaims s).trans (setAccountState_onlyClaims _ _)

/-- The account settled, then the hooks: where both are known to be clear there is no RECOVERY claim. -/
theorem endJoin_clear {t : State} (settled : s.settleAccount = t) (clear : s.bothClear = true) :
    s.endJoin = t.setStation .active := by
  subst settled
  have kept : s.settleAccount.bothClear = true := (settleAccount_onlyClaims s).bothClear.trans clear
  exact congrArg (State.setStation .active) (if_pos kept)

theorem endJoin_recovers {t : State} (settled : s.settleAccount = t) (low : s.bothClear = false) :
    s.endJoin = t.issueRecovery.setStation .active := by
  subst settled
  have kept : s.settleAccount.bothClear = false := (settleAccount_onlyClaims s).bothClear.trans low
  exact congrArg (State.setStation .active) (if_neg (Bool.eq_false_iff.mp kept))

/-- Each rank stands at its own place. -/
theorem allRanks_get (i : Nat) (h : i < allRanks.length) : allRanks[i] = (⟨i, h⟩ : Fin 8) := by
  have every : ∀ r : Fin 8, allRanks[r] = r := by decide
  exact every ⟨i, h⟩

/-- The first rank that passes a test is the lowest that does. -/
theorem find_allRanks_some {p : Rank → Bool} {r : Rank} :
    allRanks.find? p = some r ↔ p r = true ∧ ∀ q, q < r → ¬p q = true := by
  simp only [List.find?_eq_some_iff_getElem, allRanks_get, Bool.not_eq_true', Bool.not_eq_true]
  refine and_congr_right fun _ => ⟨?_, fun least => ⟨r.val, r.isLt, rfl, fun j below => ?_⟩⟩
  · rintro ⟨i, h, rfl, before⟩ q below
    exact before q.val below
  · exact least ⟨j, Nat.lt_trans below r.isLt⟩ below

theorem find_allRanks_none {p : Rank → Bool} : allRanks.find? p = none ↔ ∀ r, ¬p r = true := by
  have every : ∀ r : Rank, r ∈ allRanks := by decide
  rw [List.find?_eq_none]
  exact ⟨fun none r => none r (every r), fun none r _ => none r⟩

/-- The peers that a rebase can ask, as one test of the ranks. -/
theorem syncedPeer_eq (s : State) : s.syncedPeer = allRanks.find? fun r =>
    decide (r ≠ s.own ∧ s.roster.peers[r].live = true ∧ s.roster.peers[r].account = some .synced) := by
  unfold State.syncedPeer State.livePeers
  rw [List.find?_filter]
  congr 1
  funext r
  simp [and_assoc]

end

/-- Settles O21: the beacon, the four ends of the join by the peer to ask and the hooks, and the peer to ask. -/
theorem beaconIsPostedAndJoinEndsActive : Obligations.BeaconIsPostedAndJoinEndsActive := by
  refine ⟨fun s t runs due => exec_beaconTimer_of_due runs due, fun s t listening runs due => ?_, fun s => ?_⟩
  · intro u
    have ends {v : State} (h : u.endJoin = v) : exec .joinWindowExpiry s = .next v.finish :=
      h ▸ exec_joinWindow_of_due listening runs due
    have asks {r : Rank} (h : s.syncedPeer = some r) : u.settleAccount = u.beginRebase none :=
      settleAccount_asks (s := u) h
    have alone (h : s.syncedPeer = none) : u.settleAccount = u.workThrough.setAccountState .synced :=
      settleAccount_alone (s := u) h
    exact ⟨fun r peer clear => ends (endJoin_clear (asks peer) clear),
      fun r peer low => ends (endJoin_recovers (asks peer) low),
      fun none clear => ends (endJoin_clear (alone none) clear),
      fun none low => ends (endJoin_recovers (alone none) low)⟩
  · intro shows
    rw [syncedPeer_eq]
    refine ⟨fun r => find_allRanks_some.trans ?_, find_allRanks_none.trans ?_⟩ <;> simp only [decide_eq_true_iff] <;> rfl

/-! ## The RECOVERY claim (R11, R29) -/

section
variable {s : State}

theorem deferGranted_eq (sp : Span) (s : State) : s.deferGranted sp = s.setTable (s.claims.table.map fun e =>
    if e.origin ≠ s.own ∧ e.state = .granted ∧ e.kind ≠ .recovery ∧ e.span.overlaps sp = true then
      { e with state := .deferred } else e) := by
  unfold State.deferGranted State.isOwn
  simp only [Bool.and_eq_true, Bool.not_eq_true', beq_eq_false_iff_ne, beq_iff_eq, bne_iff_ne, and_assoc]

theorem issueRecovery_within {reach : Span} (h : s.conf.reach[s.own] = some reach) :
    s.issueRecovery = (s.deferGranted reach).enterOwn .recovery reach 0 none .held := by
  unfold State.issueRecovery State.reachOf
  rw [h]

theorem aboveClear_iff (s : State) (ch : Channel) :
    s.aboveClear ch = true ↔ ∃ r, (s.channel ch).report = some r ∧ s.conf.clear ≤ r.position := by
  unfold State.aboveClear
  cases (s.channel ch).report with
  | none => simp
  | some r => simp

theorem endRecovery_low (h : ¬s.bothClear = true) : s.endRecovery = s := if_neg h

theorem endRecovery_found (clear : s.bothClear = true) {e : ClaimEntry}
    (found : s.claims.table.find? (fun e => s.isOwn e && e.kind == .recovery) = some e) :
    s.endRecovery = s.endClaim e.number := by
  unfold State.endRecovery
  rw [found]
  exact if_pos clear

theorem endRecovery_none (absent : s.claims.table.find? (fun e => s.isOwn e && e.kind == .recovery) = none) :
    s.endRecovery = s := by
  unfold State.endRecovery
  rw [absent]
  exact ite_self _

end

/-- Settles O22: the state ISOLATED, the RECOVERY claim's issue, its end, and what is known of the hooks. -/
theorem isolationAndRecoveryAct : Obligations.IsolationAndRecoveryAct := by
  refine ⟨fun s why => ⟨?_, fun r => ?_⟩, fun s reach within => ?_, fun s => ⟨fun low => ?_, fun none => ?_,
    fun e lead trail found => endRecovery_found (bothClear_iff.mpr ⟨lead, trail⟩) found⟩,
    fun s => ⟨aboveClear_iff s, bothClear_iff⟩⟩
  · rw [enterIsolated_eq]
  · rw [enterIsolated_eq]
    exact Vector.getElem_map _ _
  · rw [issueRecovery_within within, deferGranted_eq]
    rfl
  · refine endRecovery_low fun clear => ?_
    obtain ⟨lead, trail⟩ := bothClear_iff.mp clear
    exact low.elim (fun no => Bool.false_ne_true (no.symm.trans lead)) fun no => Bool.false_ne_true (no.symm.trans trail)
  · refine endRecovery_none (List.find?_eq_none.mpr fun e there recovery => ?_)
    obtain ⟨own, kind⟩ := Bool.and_eq_true_iff.mp recovery
    exact none e there (beq_iff_eq.mp own) (beq_iff_eq.mp kind)

end Sys2Proof.Machine
end

section
/-! PROOFS. The entry to LOADING: the STOP input sampled, and the identity, the configuration and the lock table taken
from their areas by their checks (R116, R117, R167, R179, R208 to R210). -/

namespace Sys2Proof.Machine

/-! ## The lock table's bytes (R210) -/

/-- Flag `n` is bit `n mod 8` of byte `n div 8`. -/
theorem lockFlags_getLsbD : ∀ (bs : List Byte) {n : Nat}, n < 64 →
    (lockFlags bs).getLsbD n = (bs.getD (n / 8) 0).getLsbD (n % 8)
  | [], n, _ => by simp [lockFlags]
  | b :: bs, n, h => by
    have step : (lockFlags (b :: bs)).getLsbD n =
        ((!decide (n < 8) && (lockFlags bs).getLsbD (n - 8)) || b.getLsbD n) := by
      change ((lockFlags bs <<< 8) ||| b.setWidth 64).getLsbD n = _
      rw [BitVec.getLsbD_or, BitVec.getLsbD_shiftLeft, BitVec.getLsbD_setWidth, decide_eq_true h, Bool.true_and,
        Bool.true_and]
    rw [step]
    by_cases first : n < 8
    · rw [decide_eq_true first, Nat.div_eq_of_lt first, Nat.mod_eq_of_lt first]
      rfl
    · have later : n / 8 = (n - 8) / 8 + 1 := by omega
      have same : (n - 8) % 8 = n % 8 := by omega
      rw [lockFlags_getLsbD bs (by omega), decide_eq_false first, later, same, List.getD_cons_succ,
        BitVec.getLsbD_of_ge b n (by omega), Bool.or_false]
      rfl

theorem lockBytes_get (flags : BitVec 64) {i : Nat} (h : i < 8) :
    (lockBytes flags)[i]? = some ((flags >>> (8 * i)).setWidth 8) := by
  unfold lockBytes
  rw [List.getElem?_map, List.getElem?_range h]
  rfl

theorem shifted_getLsbD (flags : BitVec 64) (n : Nat) :
    ((flags >>> (8 * (n / 8))).setWidth 8 : Byte).getLsbD (n % 8) = flags.getLsbD n := by
  rw [BitVec.getLsbD_setWidth, BitVec.getLsbD_ushiftRight, decide_eq_true (Nat.mod_lt n (by decide)), Bool.true_and,
    Nat.div_add_mod]

theorem lockFlags_lockBytes (flags : BitVec 64) : lockFlags (lockBytes flags) = flags := by
  refine BitVec.eq_of_getLsbD_eq fun n h => ?_
  rw [lockFlags_getLsbD _ h, List.getD_eq_getElem?_getD, lockBytes_get flags (by omega), Option.getD_some,
    shifted_getLsbD]

/-! ## The areas and their checks (R167, R179, R208) -/

theorem locksFrom_good {a : StoredArea} (h : a.good = true) : locksFrom a = lockFlags a.bytes := if_pos h

theorem locksFrom_bad {a : StoredArea} (h : a.good = false) : locksFrom a = BitVec.allOnes 64 :=
  if_neg (Bool.eq_false_iff.mp h)

theorem configFrom_bad {a : StoredArea} (h : a.good = false) : configFrom a = none := by
  unfold configFrom; rw [h]; rfl

/-! ## The configuration's fields (R209, R210) -/

theorem firstFailure_isNone (tests : List (Nat × Bool)) :
    (firstFailure tests).isNone = true ↔ ∀ t ∈ tests, t.2 = true := by
  unfold firstFailure
  simp

/-- The reach table's entry of a rank that has no reach. -/
def ReachAbsent (bs : List Byte) (r : Nat) : Prop :=
  cfgNat bs (4 + 3 * r) 1 = 0 ∧ cfgNat bs (5 + 3 * r) 1 = 0 ∧ cfgNat bs (6 + 3 * r) 1 = 0

/-- The reach table's entry of a rank with a valid reach. -/
def ReachPresent (bs : List Byte) (r : Nat) : Prop :=
  cfgNat bs (4 + 3 * r) 1 = 1 ∧ cfgNat bs (5 + 3 * r) 1 ≤ cfgNat bs (6 + 3 * r) 1 ∧
    cfgNat bs (6 + 3 * r) 1 < cfgNat bs 1 1

/-- Every field lies in its range, and the own rank has a reach (R167, R210). -/
def ConfigSound (bs : List Byte) : Prop :=
  cfgNat bs 0 1 ≤ 7 ∧ (4 ≤ cfgNat bs 1 1 ∧ cfgNat bs 1 1 ≤ 32) ∧ (200 ≤ cfgNat bs 2 2 ∧ cfgNat bs 2 2 ≤ 2000) ∧
    (∀ r < 8, ReachAbsent bs r ∨ ReachPresent bs r) ∧ cfgNat bs 28 1 ≤ 3 ∧ cfgNat bs 29 4 ≤ 4000000000 ∧
    (300 ≤ cfgNat bs 33 2 ∧ cfgNat bs 33 2 ≤ 3000) ∧ (50 ≤ cfgNat bs 35 2 ∧ cfgNat bs 35 2 ≤ 1000) ∧
    (-4000 ≤ cfgInt bs 37 ∧ cfgInt bs 37 ≤ 8000) ∧ (-4000 ≤ cfgInt bs 39 ∧ cfgInt bs 39 ≤ 8000) ∧
    (10 ≤ cfgNat bs 41 2 ∧ cfgNat bs 41 2 ≤ 500) ∧ (10 ≤ cfgNat bs 43 2 ∧ cfgNat bs 43 2 ≤ 500) ∧
    (10 ≤ cfgNat bs 45 2 ∧ cfgNat bs 45 2 ≤ 500) ∧ (1 ≤ cfgNat bs 47 1 ∧ cfgNat bs 47 1 ≤ 50) ∧
    cfgNat bs (4 + 3 * cfgNat bs 0 1) 1 = 1

theorem reachEntrySound_iff (bs : List Byte) (r : Nat) :
    reachEntrySound bs r = true ↔ ReachAbsent bs r ∨ ReachPresent bs r := by
  have first : 4 + 3 * r + 1 = 5 + 3 * r := by omega
  have last : 4 + 3 * r + 2 = 6 + 3 * r := by omega
  unfold reachEntrySound ReachAbsent ReachPresent
  rw [first, last]
  dsimp only
  split
  · next h => simp [h]
  · next h => simp [h]
  · next not0 not1 =>
    refine iff_of_false Bool.false_ne_true ?_
    rintro (⟨zero, -⟩ | ⟨one, -⟩)
    · exact not0 zero
    · exact not1 one

theorem configRanges_iff (bs : List Byte) : (∀ t ∈ configRanges bs, t.2 = true) ↔ ConfigSound bs := by
  unfold configRanges ConfigSound
  simp only [List.forall_mem_append, List.forall_mem_cons, List.not_mem_nil, List.forall_mem_map, List.mem_range,
    Bool.and_eq_true, decide_eq_true_iff, beq_iff_eq, reachEntrySound_iff, false_imp_iff, implies_true, and_true,
    and_assoc]

theorem configFrom_good {a : StoredArea} (h : a.good = true) :
    configFrom a = if (firstFailure (configRanges a.bytes)).isNone then some (configOf a.bytes) else none := by
  unfold configFrom; rw [h, Bool.true_and]

theorem configFrom_sound {a : StoredArea} (h : a.good = true) (sound : ConfigSound a.bytes) :
    configFrom a = some (configOf a.bytes) :=
  (configFrom_good h).trans (if_pos ((firstFailure_isNone _).mpr ((configRanges_iff _).mpr sound)))

theorem configFrom_unsound {a : StoredArea} (h : a.good = true) (unsound : ¬ConfigSound a.bytes) :
    configFrom a = none :=
  (configFrom_good h).trans (if_neg (mt (firstFailure_isNone _).mp (mt (configRanges_iff _).mp unsound)))

theorem beaconPeriodOf_eq : ∀ {k : Nat}, k ≤ 3 → beaconPeriodOf k = 100 * 2 ^ k
  | 0, _ => rfl
  | 1, _ => rfl
  | 2, _ => rfl
  | 3, _ => rfl

theorem configOf_reach (bs : List Byte) (r : Rank) : (configOf bs).reach[r] =
    if cfgNat bs (4 + 3 * r.val) 1 = 1 then some ⟨cfgNat bs (5 + 3 * r.val) 1, cfgNat bs (6 + 3 * r.val) 1⟩
    else none := by
  have first : 4 + 3 * r.val + 1 = 5 + 3 * r.val := by omega
  have last : 4 + 3 * r.val + 2 = 6 + 3 * r.val := by omega
  rw [← first, ← last]
  exact Vector.getElem_ofFn _

theorem configOf_ownRank {bs : List Byte} (h : cfgNat bs 0 1 ≤ 7) : (configOf bs).ownRank.val = cfgNat bs 0 1 :=
  Nat.mod_eq_of_lt (by omega)

/-! ## The STOP input sampled (R116, R117) -/

section
variable {s : State}

theorem stop_outranks {c : HoldClass} (h : c ≠ .stop) : HoldClass.stop.code < c.code := by
  revert h; cases c <;> decide

/-- A STOP that neither stands nor waits enters over whatever stands, and stays. -/
theorem latch_stop_enters (k : HoldCause) (standing : s.standing .stop = false) (pending : s.isPending .stop = false) :
    s.latch .stop k = s.enterHold ⟨.stop, k, s.time.clock⟩ := by
  have least : ∀ q ∈ s.holds.pending ++ [], HoldClass.stop.code < q.cls.code := fun q there =>
    stop_outranks fun same => by
      rw [List.append_nil] at there
      exact Bool.eq_false_iff.mp pending (List.any_eq_true.mpr ⟨q, there, beq_iff_eq.mpr same⟩)
  have above : ∀ e rest, s.holds.stack = e :: rest → HoldClass.stop.code < e.cls.code := fun e rest top =>
    stop_outranks fun same => Bool.eq_false_iff.mp standing
      (List.any_eq_true.mpr ⟨e, by rw [top]; exact List.mem_cons_self, beq_iff_eq.mpr same⟩)
  obtain ⟨-, holds, -⟩ := enterHold_freeze (p := ⟨.stop, k, s.time.clock⟩) s rfl
  have stopOnTop (e : HoldEntry) (one : (s.enterHold ⟨.stop, k, s.time.clock⟩).holds.stack = [e]) : e.cls ≠ .pause := by
    rw [holds] at one
    obtain ⟨rfl, -⟩ := List.cons.inj one
    exact nofun
  rw [latch_taken k rfl standing pending, enterPending_enters (s := s.causePending .stop k) rfl least above,
    enterHold_causePending k]
  refine testCancel_neither (fun ready => ?_) fun paused => ?_
  · obtain ⟨-, empty | ⟨e, one, pause⟩⟩ := (cancelReady_iff _).mp ready
    · rw [holds] at empty; cases empty
    · exact stopOnTop e one pause
  · obtain ⟨-, -, e, one, pause⟩ := (endLiftPaused_iff _).mp paused
    exact stopOnTop e one pause

/-- A STOP latched stands or waits, stops every channel that was to be stopped, and touches no roster and no array. -/
theorem latch_stop (k : HoldCause) (waits : ∀ ch, (s.channel ch).waiting = some .stop) :
    let t := s.latch .stop k
    t.roster = s.roster ∧ t.flash = s.flash ∧ (∀ ch, (t.channel ch).waiting = some .stop) ∧
      (t.standing .stop = true ∨ t.isPending .stop = true) := by
  by_cases known : s.standing .stop = true ∨ s.isPending .stop = true
  · rw [latch_known k known]
    exact ⟨rfl, rfl, waits, known⟩
  · obtain ⟨standing, pending⟩ := not_or.mp known
    rw [latch_stop_enters k (Bool.eq_false_iff.mpr standing) (Bool.eq_false_iff.mpr pending)]
    obtain ⟨frame, holds, channels, -⟩ := enterHold_freeze (p := ⟨.stop, k, s.time.clock⟩) s rfl
    refine ⟨by rw [frame], by rw [frame], fun ch => congrArg ChannelState.waiting (channels ch), .inl ?_⟩
    unfold State.standing
    rw [holds]
    rfl

/-- The STOP input found asserted: STOP latched, and the break driven. -/
theorem stopInput_sampled (waits : ∀ ch, (s.channel ch).waiting = some .stop) :
    let t := s.stopInput
    t.roster = s.roster ∧ t.flash = s.flash ∧ (∀ ch, (t.channel ch).waiting = some .stop) ∧
      (t.standing .stop = true ∨ t.isPending .stop = true) ∧ t.link.breakDrive = some 1360 := by
  obtain ⟨roster, flash, channels, latched⟩ := latch_stop .stopInput waits
  exact ⟨roster, flash, channels, latched, rfl⟩

/-- The state in LOADING with a STOP posted on each channel. -/
def State.loadingStops (s : State) : State := (s.setStation .loading).postStops

theorem loadingStops_waiting (s : State) (ch : Channel) : (s.loadingStops.channel ch).waiting = some .stop := by
  cases ch <;> rfl

theorem enterLoading_released (h : s.pins.stop = false) : s.enterLoading = s.loadingStops.readAreas :=
  congrArg State.readAreas (if_neg (Bool.eq_false_iff.mp h))

theorem enterLoading_asserted (h : s.pins.stop = true) : s.enterLoading = s.loadingStops.stopInput.readAreas :=
  congrArg State.readAreas (if_pos h)

theorem exec_resetReleased (off : s.roster.state = .offline) :
    exec .resetReleased s = .next s.enterLoading.finish :=
  if_neg (Bool.eq_false_iff.mp ((isOn_false_iff s).mpr off))

/-- What LOADING takes from the array, whatever the STOP input has brought. -/
theorem readAreas_taken {t : State} (roster : t.roster = s.loadingStops.roster) (flash : t.flash = s.flash)
    (waits : ∀ ch, (t.channel ch).waiting = some .stop) :
    let u := t.readAreas
    u.roster = { s.roster with
      state := .loading
      identity := some (identityFrom s.flash.identity)
      config := configFrom s.flash.config
      digest := if (configFrom s.flash.config).isSome then geometryDigest s.flash.config.bytes else 0 } ∧
    u.log.locks = locksFrom s.flash.locks ∧ ∀ ch, (u.channel ch).waiting = some .stop := by
  unfold State.readAreas
  rw [roster, flash]
  exact ⟨rfl, rfl, waits⟩

end

/-- Settles O10: the entry to LOADING by the STOP input's level, the areas by their checks, the configuration by its
fields, and the lock table's flags. -/
theorem resetReleasedEntersLoading : Obligations.ResetReleasedEntersLoading := by
  refine ⟨fun s off => ⟨s.enterLoading, exec_resetReleased off, ?_⟩,
    fun a => ⟨rfl, rfl, locksFrom_good, fun bad => ⟨configFrom_bad bad, locksFrom_bad bad⟩⟩, fun a good => ?_,
    fun flags => ⟨lockFlags_lockBytes flags, fun n h => ?_⟩⟩
  · cases pin : s.pins.stop with
    | false =>
      rw [enterLoading_released pin]
      obtain ⟨roster, locks, waits⟩ := readAreas_taken (s := s) (t := s.loadingStops) rfl rfl (loadingStops_waiting s)
      exact ⟨roster, locks, waits, fun _ => rfl, nofun⟩
    | true =>
      obtain ⟨kept, array, stops, latched, broken⟩ := stopInput_sampled (loadingStops_waiting s)
      obtain ⟨roster, locks, waits⟩ := readAreas_taken kept array stops
      rw [enterLoading_asserted pin]
      exact ⟨roster, locks, waits, nofun, fun _ => ⟨latched, broken⟩⟩
  · intro n h within absent present sound
    have same : sound ↔ ConfigSound a.bytes := Iff.rfl
    refine ⟨fun unsound => configFrom_unsound good (mt same.mpr unsound), fun sound => ?_⟩
    obtain ⟨rank, -, -, -, period, -⟩ := same.mp sound
    refine ⟨_, configFrom_sound good (same.mp sound), configOf_ownRank rank, rfl, rfl,
      fun r => ⟨fun none => ?_, fun there => ?_⟩, beaconPeriodOf_eq period, rfl, rfl, rfl, rfl, rfl, rfl, rfl, rfl, rfl⟩
    · obtain ⟨zero, -⟩ := none
      exact (configOf_reach _ r).trans (if_neg fun one => Nat.zero_ne_one (zero.symm.trans one))
    · obtain ⟨one, -⟩ := there
      exact (configOf_reach _ r).trans (if_pos one)
  · rw [lockBytes_get flags (by omega), Option.map_some, shifted_getLsbD]

end Sys2Proof.Machine
end

section
/-! PROOFS. A step keeps the array in its canonical form, and the Log Store's positions on it (R178, R180). -/

namespace Sys2Proof.Machine

/-- The array's form does not read the queue of commands. -/
theorem setPending_formed {s : State} (l : List Instr) (h : s.Formed) : ({ s with pending := l } : State).Formed :=
  ⟨h.pages, h.writePos, h.due, h.blocked, h.erasing⟩

/-- A step runs the front command on the state with the queue's rest, or it is a tick. -/
theorem step_runs_or_ticks {s t : State} (stepped : step s = .next t) :
    (∃ rest, Runs { s with pending := rest } t) ∨ t = s.tick := by
  unfold step at stepped
  split at stepped
  · next c rest _ =>
    obtain ⟨u, answers, runs⟩ := exec_runs c { s with pending := rest }
    obtain rfl : u = t := Host.Outcome.next.inj (answers.symm.trans stepped)
    exact .inl ⟨rest, runs⟩
  · exact .inr (Host.Outcome.next.inj stepped).symm

/-- Settles O5: what every command keeps holds the array's form, and a tick touches neither the array nor the log. -/
theorem stepKeepsFormed : Obligations.StepKeepsFormed := by
  intro s t formed stepped
  obtain ⟨rest, runs⟩ | rfl := step_runs_or_ticks stepped
  · exact runs.formed (setPending_formed rest formed)
  · exact (tick_keeps s).formed formed

end Sys2Proof.Machine
end

section
/-! PROOFS. The write position moved on, the ends of a commit and of an erase (R182, R185 to R187; logs 18, 32). -/

namespace Sys2Proof.Machine

/-! ## The write position (R186) -/

section
variable {s : State} {p : Nat}

theorem lookAhead_full {x : Nat} (locked : sectionLocked s.log.locks (sectionAhead x) = true) :
    s.lookAhead x = s.enterFull (sectionAhead x) := if_pos locked

theorem lookAhead_due {x : Nat} (unlocked : sectionLocked s.log.locks (sectionAhead x) = false) :
    s.lookAhead x = s.setLog { s.log with eraseDue := some (sectionAhead x) } := if_neg (Bool.eq_false_iff.mp unlocked)

theorem advanceFrom_moves {q : Nat} (next : nextEmptyAfter s.flash.pages p = some q) :
    s.advanceFrom p = s.setLog { s.log with writePos := some q } := by
  unfold State.advanceFrom; rw [next]

theorem advanceFrom_sectionEnd (last : nextEmptyAfter s.flash.pages p = none) :
    s.advanceFrom p = s.lookAhead (sectionOf p) := by
  unfold State.advanceFrom; rw [last]

theorem advanceFrom_due (last : nextEmptyAfter s.flash.pages p = none)
    (unlocked : sectionLocked s.log.locks (sectionAhead (sectionOf p)) = false) :
    s.advanceFrom p = s.setLog { s.log with eraseDue := some (sectionAhead (sectionOf p)) } :=
  (advanceFrom_sectionEnd last).trans (lookAhead_due unlocked)

theorem advanceFrom_full (last : nextEmptyAfter s.flash.pages p = none)
    (locked : sectionLocked s.log.locks (sectionAhead (sectionOf p)) = true) :
    s.advanceFrom p = s.enterFull (sectionAhead (sectionOf p)) :=
  (advanceFrom_sectionEnd last).trans (lookAhead_full locked)

end

/-! ## Buffers (R182) -/

theorem Buffer.toReady_other {b : Buffer} (other : ∀ r, b ≠ .committing r) : b.toReady = b := by
  cases b with
  | committing r => exact absurd rfl (other r)
  | _ => rfl

theorem Buffer.committing_of_some {b : Buffer} {r : Record} (h : b.committing? = some r) : b = .committing r := by
  cases b with
  | committing q => exact congrArg Buffer.committing (Option.some.inj h)
  | _ => cases h

/-- The COMMITTING record stands in its buffer. -/
theorem buffer_of_committing {l : LogStore} {i : BufferId} {r : Record} (h : l.committing = some (i, r)) :
    l.buffer i = .committing r := by
  unfold LogStore.committing at h
  split at h
  · next a => cases h; exact Buffer.committing_of_some a
  · next b => cases h; exact Buffer.committing_of_some b
  · cases h

/-- A change of a buffer leaves the lock table alone. -/
@[simp] theorem LogStore.setBuffer_locks (i : BufferId) (b : Buffer) (l : LogStore) :
    (l.setBuffer i b).locks = l.locks := by
  cases i <;> rfl

/-- The entry to FULL takes a COMMITTING buffer back to READY (R186). -/
theorem enterFull_buffer (x : Nat) (s : State) (i : BufferId) :
    (s.enterFull x).log.buffer i = (s.log.buffer i).toReady := by
  cases i <;> rfl

/-! ## The end of a commit (R185) -/

/-- A commit that matched, before the write position moves: the record on its page, the buffer FREE. -/
def State.recordPut (i : BufferId) (r : Record) (p : Nat) (s : State) : State :=
  (s.setPages (putPage p (.record r) s.flash.pages)).setLog
    { s.log.setBuffer i .free with failures := 0, op := .none }

/-- A commit that did not match, before the write position moves: the page INVALID, one more failure counted. -/
def State.pageSpoiled (p : Nat) (s : State) : State :=
  (s.setPages (putPage p .invalid s.flash.pages)).setLog { s.log with failures := s.log.failures + 1 }

section
variable {s : State} {i : BufferId} {r : Record} {p : Nat}

theorem endCommit_eq (op : s.log.op = .program) (committing : s.log.committing = some (i, r))
    (pos : s.log.writePos = some p) (isMatch : Bool) :
    s.endCommit isMatch = if isMatch then s.commitMatched i r p else s.commitFailed p := by
  unfold State.endCommit; rw [op, committing, pos]

theorem commitMatched_moves (h : r.seq < max32) : s.commitMatched i r p = (s.recordPut i r p).advanceFrom p :=
  if_pos h

theorem commitMatched_ends (h : max32 ≤ r.seq) : s.commitMatched i r p = (s.recordPut i r p).endSequence p :=
  if_neg (Nat.not_lt.mpr h)

theorem recordPut_locks (i : BufferId) (r : Record) (p : Nat) (s : State) :
    (s.recordPut i r p).log.locks = s.log.locks :=
  LogStore.setBuffer_locks i .free s.log

/-- The log still OPEN and no erase due: the next attempt goes on at once. -/
theorem commitFailed_goesOn {t : State} (few : s.log.failures < 2) (moved : (s.pageSpoiled p).advanceFrom p = t)
    (opened : t.log.state = .opened) (notDue : t.log.eraseDue = none) : s.commitFailed p = t := by
  subst moved
  exact (if_pos (Nat.succ_lt_succ few)).trans (congrArg (State.setLog · _) (if_pos ⟨opened, notDue⟩))

theorem commitFailed_waits {t : State} (few : s.log.failures < 2) (moved : (s.pageSpoiled p).advanceFrom p = t)
    (waits : t.log.state ≠ .opened ∨ t.log.eraseDue ≠ none) :
    s.commitFailed p = t.setLog { t.log with op := .none } := by
  subst moved
  exact (if_pos (Nat.succ_lt_succ few)).trans (congrArg (State.setLog · _)
    (if_neg fun ⟨opened, notDue⟩ => waits.elim (absurd opened) (absurd notDue)))

theorem commitFailed_stops (h : 2 ≤ s.log.failures) : s.commitFailed p =
    ((s.pageSpoiled p).setLog
      { (s.pageSpoiled p).log.backToReady with state := .fault, op := .none }).raise .logFault :=
  if_neg (Nat.not_lt.mpr (Nat.succ_le_succ h))

end

/-! ## The end of an erase (R187, log 32) -/

theorem firstPage_eq (x : Nat) : firstPage x = 64 * x := Nat.mul_comm x 64

/-- The section after an erase, before the write position is set: the pages that do not read EMPTY are INVALID. -/
def State.eraseDone (x : Nat) (bad : List Nat) (s : State) : State :=
  (s.setPages (bad.foldl (fun ps o => putPage (64 * x + o) .invalid ps) s.flash.pages)).setLog
    { s.log with op := .none }

section
variable {s : State} {x : Nat} {bad : List Nat}

theorem putInvalid_eq_eraseDone (inSection : ∀ o ∈ bad, o < 64) :
    (s.setPages (putInvalid x (bad.filter (· < pagesPerSection)) s.flash.pages)).setLog { s.log with op := .none } =
      s.eraseDone x bad := by
  have offsets : bad.filter (· < pagesPerSection) = bad :=
    List.filter_eq_self.mpr fun o there => decide_eq_true (inSection o there)
  unfold putInvalid
  rw [offsets, firstPage_eq]
  rfl

theorem endErase_moves {q : Nat} (op : s.log.op = .erase x) (inSection : ∀ o ∈ bad, o < 64)
    (next : nextEmpty (s.eraseDone x bad).flash.pages 64 (64 * x) = some q) :
    s.endErase bad = (s.eraseDone x bad).setLog { (s.eraseDone x bad).log with writePos := some q } := by
  unfold State.endErase
  rw [op]
  dsimp only
  rw [putInvalid_eq_eraseDone inSection, firstPage_eq, pagesPerSection, next]

theorem endErase_sectionEnd (op : s.log.op = .erase x) (inSection : ∀ o ∈ bad, o < 64)
    (last : nextEmpty (s.eraseDone x bad).flash.pages 64 (64 * x) = none) :
    s.endErase bad = (s.eraseDone x bad).lookAhead x := by
  unfold State.endErase
  rw [op]
  dsimp only
  rw [putInvalid_eq_eraseDone inSection, firstPage_eq, pagesPerSection, last]

end

/-- Settles O55: a commit by its match, its sequence and its section; the entry to FULL; an erase by its section. -/
theorem commitAndEraseMoveOn : Obligations.CommitAndEraseMoveOn := by
  refine ⟨fun s i r p op committing pos => ?_, fun s x => ⟨rfl, fun i => ⟨fun r held => ?_, fun other => ?_⟩⟩,
    fun s x bad op inSection => ?_⟩
  · intro spoiled put ahead
    have locks : put.log.locks = s.log.locks := recordPut_locks i r p s
    have matched {t : State} (h : s.commitMatched i r p = t) : exec (.commitEnd true) s = .next t.finish := by
      subst h
      exact congrArg (fun t : State => Host.Outcome.next t.finish) (endCommit_eq op committing pos true)
    have failed {t : State} (h : s.commitFailed p = t) : exec (.commitEnd false) s = .next t.finish := by
      subst h
      exact congrArg (fun t : State => Host.Outcome.next t.finish) (endCommit_eq op committing pos false)
    refine ⟨fun q below next => matched ?_, fun below last unlocked => matched ?_, fun below last locked => matched ?_,
      fun top => matched (commitMatched_ends top), fun third => failed (commitFailed_stops third),
      fun q few next => ⟨fun opened notDue => failed ?_, fun waits => failed ?_⟩,
      fun few last unlocked => failed ?_, fun few last locked => ⟨?_, failed ?_⟩⟩
    · exact (commitMatched_moves below).trans (advanceFrom_moves next)
    · exact (commitMatched_moves below).trans (advanceFrom_due last (locks ▸ unlocked))
    · exact (commitMatched_moves below).trans (advanceFrom_full last (locks ▸ locked))
    · exact commitFailed_goesOn few (advanceFrom_moves next) opened notDue
    · exact commitFailed_waits few (advanceFrom_moves next) waits
    · exact commitFailed_waits few (advanceFrom_due last unlocked) (.inr (Option.some_ne_none _))
    · exact (enterFull_buffer ahead spoiled i).trans (congrArg Buffer.toReady (buffer_of_committing committing))
    · exact commitFailed_waits few (advanceFrom_full last locked) (.inl (by decide : LogState.full ≠ .opened))
  · rw [enterFull_buffer, held]
    rfl
  · rw [enterFull_buffer, Buffer.toReady_other other]
  · intro u
    have ended {t : State} (h : s.endErase bad = t) : exec (.eraseEnd bad) s = .next t.finish :=
      congrArg (fun t : State => Host.Outcome.next t.finish) h
    exact ⟨fun q next => ended (endErase_moves op inSection next),
      fun last unlocked => ended ((endErase_sectionEnd op inSection last).trans (lookAhead_due unlocked)),
      fun last locked => ended ((endErase_sectionEnd op inSection last).trans (lookAhead_full locked))⟩

end Sys2Proof.Machine
end

section
/-! PROOFS. The array's next operation by what waits, and a pending checkpoint placed (R67, R178, R181, R184, R186,
R187, R191; log 44). -/

namespace Sys2Proof.Machine

/-! ## An area write and an erase begun (R186, R187, R191) -/

section
variable {s : State} {x : Nat}

theorem beginAreaWrite_waiting (idle : s.log.op = .none) (waits : s.log.areaWrite ≠ none) :
    s.beginAreaWrite = some (s.setLog { s.log with op := .areaWrite }) :=
  if_pos (Bool.and_eq_true_iff.mpr ⟨beq_iff_eq.mpr idle, Option.isSome_iff_ne_none.mpr waits⟩)

theorem beginAreaWrite_none (h : s.log.op ≠ .none ∨ s.log.areaWrite = none) : s.beginAreaWrite = none := by
  refine if_neg fun begins => ?_
  obtain ⟨idle, waits⟩ := Bool.and_eq_true_iff.mp begins
  exact h.elim (absurd (beq_iff_eq.mp idle)) (absurd · (Option.isSome_iff_ne_none.mp waits))

theorem LogStore.mayStart_iff (l : LogStore) :
    l.mayStart = true ↔ l.state = .opened ∧ l.op = .none ∧ l.areaWrite = none := by
  unfold LogStore.mayStart
  rw [Bool.and_eq_true, Bool.and_eq_true, beq_iff_eq, beq_iff_eq, Option.isNone_iff_eq_none, and_assoc]

theorem LogStore.mayStart_false {l : LogStore} (h : l.op ≠ .none ∨ l.areaWrite ≠ none ∨ l.state ≠ .opened) :
    l.mayStart = false := by
  refine Bool.eq_false_iff.mpr fun may => ?_
  obtain ⟨opened, idle, free⟩ := (LogStore.mayStart_iff l).mp may
  exact h.elim (absurd idle) fun h => h.elim (absurd free) (absurd opened)

theorem eraseSection_eq (x : Nat) (s : State) :
    s.eraseSection x = (s.setPages (s.flash.pages.filter fun q => q.1 / 64 != x)).setLog
      { s.log with op := .erase x, writePos := some (64 * x), eraseDue := none } := by
  unfold State.eraseSection
  rw [firstPage_eq]
  rfl

theorem beginErase_mayNot (may : s.log.mayStart = false) : s.beginErase = none :=
  if_neg (Bool.eq_false_iff.mp may)

theorem beginErase_due (may : s.log.mayStart = true) (due : s.log.eraseDue = some x) :
    s.beginErase = some (if sectionLocked s.log.locks x then s.enterFull x else s.eraseSection x) := by
  unfold State.beginErase; rw [may, due]; rfl

/-! ## A commit begun (R184, R185) -/

theorem beginCommit_mayNot (may : s.log.mayStart = false) : s.beginCommit = none := by
  unfold State.beginCommit; rw [may]; rfl

theorem beginCommit_eraseFirst (due : s.log.eraseDue = some x) : s.beginCommit = none := by
  unfold State.beginCommit; rw [due, Option.isNone_some, Bool.and_false]; rfl

/-- A log that may start an operation, with no erase due and a page to write. -/
def LogStore.mayCommit (l : LogStore) : Bool := l.mayStart && l.eraseDue.isNone && l.writePos.isSome

theorem mayCommit_of {l : LogStore} {p : Nat} (may : l.mayStart = true) (notDue : l.eraseDue = none)
    (pos : l.writePos = some p) : l.mayCommit = true := by
  unfold LogStore.mayCommit; rw [may, notDue, pos]; rfl

/-- The next attempt of a commit that was held up. -/
theorem beginCommit_again {q : BufferId × Record} (may : s.log.mayCommit = true) (held : s.log.committing = some q) :
    s.beginCommit = some (s.setLog { s.log with op := .program }) := by
  refine (if_pos may).trans ?_
  rw [held]

theorem beginCommit_next {i : BufferId} {r : Record} (may : s.log.mayCommit = true) (unheld : s.log.committing = none)
    (next : s.log.nextReady = some (i, r)) :
    s.beginCommit = some (s.setLog { s.log.setBuffer i (.committing r) with op := .program }) := by
  refine (if_pos may).trans ?_
  rw [unheld, next]

end

/-! ## Which record goes first (R182, R184, log 44) -/

section
variable {l : LogStore} {r q : Record}

theorem committing_of_buffer {i : BufferId} (h : l.buffer i = .committing r) : ∃ p, l.committing = some p := by
  unfold LogStore.committing
  cases i with
  | a =>
    rw [show l.bufA = .committing r from h]
    exact ⟨_, rfl⟩
  | b =>
    rw [show l.bufB = .committing r from h]
    cases l.bufA.committing? <;> exact ⟨_, rfl⟩

theorem committing_none (a : l.bufA.committing? = none) (b : l.bufB.committing? = none) : l.committing = none := by
  unfold LogStore.committing; rw [a, b]

/-- A buffer that is neither READY nor COMMITTING has no record to write. -/
theorem Buffer.no_record {b : Buffer} (h : ∀ r, b ≠ .ready r ∧ b ≠ .committing r) :
    b.ready? = none ∧ b.committing? = none := by
  cases b with
  | free => exact ⟨rfl, rfl⟩
  | filling d => exact ⟨rfl, rfl⟩
  | ready r => exact absurd rfl (h r).1
  | committing r => exact absurd rfl (h r).2

theorem olderB_iff : l.olderB r q = true ↔ q.seq < r.seq ∨ q.seq = r.seq ∧ l.lastReady = some .a := by
  unfold LogStore.olderB
  rw [Bool.or_eq_true, decide_eq_true_iff, Bool.and_eq_true, beq_iff_eq, beq_iff_eq]

theorem olderB_false (h : r.seq < q.seq ∨ q.seq = r.seq ∧ l.lastReady ≠ some .a) : l.olderB r q = false := by
  refine Bool.eq_false_iff.mpr fun older => ?_
  rcases olderB_iff.mp older with lower | ⟨same, last⟩
  · exact h.elim (Nat.lt_asymm lower) fun ⟨same, _⟩ => Nat.ne_of_lt lower same
  · exact h.elim (fun lower => Nat.ne_of_gt lower same) fun ⟨_, other⟩ => other last

theorem nextReady_both (a : l.bufA = .ready r) (b : l.bufB = .ready q) :
    l.nextReady = if l.olderB r q then some (.b, q) else some (.a, r) := by
  unfold LogStore.nextReady; rw [a, b]; rfl

theorem nextReady_onlyA (a : l.bufA = .ready r) (b : l.bufB.ready? = none) : l.nextReady = some (.a, r) := by
  unfold LogStore.nextReady; rw [a, b]; rfl

theorem nextReady_onlyB (a : l.bufA.ready? = none) (b : l.bufB = .ready q) : l.nextReady = some (.b, q) := by
  unfold LogStore.nextReady; rw [a, b]; rfl

end

/-! ## A pending checkpoint (R67) -/

theorem placeCheckpoint_pending {s : State} {i : BufferId} (pending : s.account.checkpointPending = true)
    (full : s.log.state ≠ .full) (fault : s.log.state ≠ .fault) (free : s.log.freeBuffer = some i) :
    s.placeCheckpoint = some ((s.setAccount { s.account with checkpointPending := false }).placeReady i
      (.checkpoint s.account.balance s.account.applied s.account.ownNext s.roster.ticketCounter)) := by
  unfold State.placeCheckpoint
  rw [pending, free]
  exact if_pos (by rw [Bool.true_and, Bool.and_eq_true, bne_iff_ne, bne_iff_ne]; exact ⟨full, fault⟩)

theorem placeCheckpoint_notPending {s : State} (h : s.account.checkpointPending = false) :
    s.placeCheckpoint = none := by
  unfold State.placeCheckpoint; rw [h]; rfl

/-- Settles O56: the array's operations by what waits, the commit by the buffers; a record made READY; a checkpoint. -/
theorem arrayOperationsAndCheckpointsBegin : Obligations.ArrayOperationsAndCheckpointsBegin := by
  refine ⟨fun s => ⟨beginAreaWrite_waiting, beginAreaWrite_none, fun no => ?_, fun x idle free opened due => ?_,
    fun p idle free opened notDue pos => ?_⟩, fun s i body => rfl,
    fun s => ⟨fun i pending room free => ?_, fun no => ?_⟩⟩
  · exact ⟨beginErase_mayNot (LogStore.mayStart_false no), beginCommit_mayNot (LogStore.mayStart_false no)⟩
  · have erase := beginErase_due ((LogStore.mayStart_iff _).mpr ⟨opened, idle, free⟩) due
    refine ⟨beginCommit_eraseFirst due, fun locked => ?_, fun unlocked => ?_⟩
    · rw [erase, locked]; rfl
    · rw [erase, unlocked, ← eraseSection_eq]; rfl
  · have may : s.log.mayCommit = true := mayCommit_of ((LogStore.mayStart_iff _).mpr ⟨opened, idle, free⟩) notDue pos
    intro goes
    refine ⟨fun i r held => ?_, fun r q a b => ?_, fun r a other => ?_, fun q b other => ?_⟩
    · obtain ⟨_, committing⟩ := committing_of_buffer held
      exact beginCommit_again may committing
    · have unheld := committing_none (l := s.log) (by rw [a]; rfl) (by rw [b]; rfl)
      have next := nextReady_both a b
      refine ⟨fun older => ?_, fun younger => ?_⟩
      · rw [olderB_iff.mpr older] at next
        exact beginCommit_next may unheld next
      · rw [olderB_false younger] at next
        exact beginCommit_next may unheld next
    · obtain ⟨notReady, notHeld⟩ := Buffer.no_record other
      exact beginCommit_next may (committing_none (by rw [a]; rfl) notHeld) (nextReady_onlyA a notReady)
    · obtain ⟨notReady, notHeld⟩ := Buffer.no_record other
      exact beginCommit_next may (committing_none notHeld (by rw [b]; rfl)) (nextReady_onlyB notReady b)
  · obtain ⟨full, fault⟩ := room
    exact placeCheckpoint_pending pending full fault free
  · exact no.elim placeCheckpoint_notPending placeCheckpoint_none

end Sys2Proof.Machine
end

section
/-! PROOFS. The end of an area write by its match, and the log leaving FULL (R188, R190, R191, R205, R210; log 7). -/

namespace Sys2Proof.Machine

/-! ## FULL tested (R188) -/

section
variable {s : State} {b : Blocked}

/-- The log OPEN again, with no section blocking it. -/
def State.reopened (s : State) : State := s.setLog { s.log with state := .opened, blocked := none }

theorem testBlocked_notFull (h : s.log.state ≠ .full ∨ s.log.blocked = none) : s.testBlocked = s := by
  unfold State.testBlocked
  split
  · next full blocked => exact h.elim (absurd full) fun absent => nomatch absent.symm.trans blocked
  · rfl

theorem testBlocked_locked (full : s.log.state = .full) (blocked : s.log.blocked = some b)
    (locked : sectionLocked s.log.locks b.sect = true) : s.testBlocked = s := by
  unfold State.testBlocked
  rw [full, blocked]
  exact if_pos locked

theorem testBlocked_erases (full : s.log.state = .full) (blocked : s.log.blocked = some b)
    (unlocked : sectionLocked s.log.locks b.sect = false)
    (erase : b.eraseNeeded = true ∨ newestRecord s.flash.pages = none) :
    s.testBlocked = s.reopened.eraseSection b.sect := by
  unfold State.testBlocked
  rw [full, blocked]
  refine (if_neg (Bool.eq_false_iff.mp unlocked)).trans ?_
  rcases erase with needed | empty
  · exact if_pos needed
  · dsimp only
    rw [setLog_flash, empty]
    exact ite_self _

theorem testBlocked_resumes {p : Nat} {r : Record} (full : s.log.state = .full) (blocked : s.log.blocked = some b)
    (unlocked : sectionLocked s.log.locks b.sect = false) (notNeeded : b.eraseNeeded = false)
    (newest : newestRecord s.flash.pages = some (p, r)) : s.testBlocked = s.reopened.resumeAfter p := by
  unfold State.testBlocked
  rw [full, blocked]
  refine (if_neg (Bool.eq_false_iff.mp unlocked)).trans ((if_neg (Bool.eq_false_iff.mp notNeeded)).trans ?_)
  dsimp only
  rw [setLog_flash, newest]
  rfl

end

/-! ## The end of an area write (R191) -/

section
variable {s : State} {w : AreaWrite}

/-- A lock table written and answered, before FULL is tested. -/
def State.tableWritten (flags : BitVec 64) (s : State) : State :=
  ({ s with
    log := { s.log with op := .none, areaWrite := none, locks := flags }
    flash := { s.flash with locks := .of (lockBytes flags) } } : State).ok
      (.count (flagCount (flags ^^^ s.log.locks)))

theorem endAreaWrite_eq (op : s.log.op = .areaWrite) (waits : s.log.areaWrite = some w) (isMatch : Bool) :
    s.endAreaWrite isMatch = if isMatch then s.areaMatched w.target else s.areaFailed w := by
  unfold State.endAreaWrite; rw [op, waits]

theorem areaMatched_lockTable (flags : BitVec 64) (s : State) :
    s.areaMatched (.lockTable flags) = (s.tableWritten flags).testBlocked := rfl

theorem areaFailed_again (few : w.failed < 2) :
    s.areaFailed w = s.setLog { s.log with areaWrite := some { w with failed := w.failed + 1 } } :=
  if_pos (Nat.succ_lt_succ few)

theorem areaFailed_refused (third : 2 ≤ w.failed) : s.areaFailed w =
    ((s.setLog { s.log with op := .none, areaWrite := none }).tearArea w.target).refuse .writeFailed :=
  if_neg (Nat.not_lt.mpr (Nat.succ_le_succ third))

/-- A failed write draws what its area holds, and touches no other part of the state. -/
theorem tearArea_onlyArea (target : AreaTarget) (s : State) : let t := s.tearArea target
    t = { s with flash := t.flash, draws := s.draws + 1 } ∧ t.flash.pages = s.flash.pages ∧
      t.flash.identity = s.flash.identity ∧
      ((∃ flags, target = .lockTable flags) → t.flash.config = s.flash.config) ∧
      ((∃ bytes, target = .config bytes) → t.flash.locks = s.flash.locks) := by
  cases target with
  | lockTable flags => exact ⟨rfl, rfl, rfl, fun _ => rfl, fun ⟨_, other⟩ => nomatch other⟩
  | config bytes => exact ⟨rfl, rfl, rfl, (fun ⟨_, other⟩ => nomatch other), fun _ => rfl⟩

theorem exec_areaWriteEnd_match {t : State} (op : s.log.op = .areaWrite) (waits : s.log.areaWrite = some w)
    (ends : s.areaMatched w.target = t) : exec (.areaWriteEnd true) s = .next t.finish := by
  subst ends
  exact congrArg (fun t : State => Host.Outcome.next t.finish) (endAreaWrite_eq op waits true)

theorem exec_areaWriteEnd_mismatch {t : State} (op : s.log.op = .areaWrite) (waits : s.log.areaWrite = some w)
    (ends : s.areaFailed w = t) : exec (.areaWriteEnd false) s = .next t.finish := by
  subst ends
  exact congrArg (fun t : State => Host.Outcome.next t.finish) (endAreaWrite_eq op waits false)

end

/-- Settles O57: a match by its area, a mismatch by its count; then FULL by its blocked section and the newest
record. -/
theorem areaWriteEndsAndUnlockLeavesFull : Obligations.AreaWriteEndsAndUnlockLeavesFull := by
  refine ⟨fun s w op waits => ⟨fun flags target notFull => ?_, fun bytes target => ?_, fun few => ?_, fun third => ?_⟩,
    fun s flags n x needed op waits full blocked => ?_⟩
  · refine exec_areaWriteEnd_match op waits ?_
    rw [target, areaMatched_lockTable]
    exact testBlocked_notFull (s := s.tableWritten flags) notFull
  · refine exec_areaWriteEnd_match op waits ?_
    rw [target]
    rfl
  · exact exec_areaWriteEnd_mismatch op waits (areaFailed_again few)
  · exact ⟨_, exec_areaWriteEnd_mismatch op waits (areaFailed_refused third), tearArea_onlyArea w.target _⟩
  · intro u ends erases
    have tested {t : State} (h : (s.tableWritten flags).testBlocked = t) : ends t :=
      exec_areaWriteEnd_match op waits h
    refine ⟨fun locked => tested (testBlocked_locked full blocked locked), fun unlocked erase => tested ?_,
      fun p r unlocked notNeeded newest => ?_⟩
    · exact (testBlocked_erases (s := s.tableWritten flags) full blocked unlocked erase).trans (eraseSection_eq x _)
    · have resumes := testBlocked_resumes (s := s.tableWritten flags) full blocked unlocked notNeeded newest
      exact ⟨fun q next => tested (resumes.trans (advanceFrom_moves next)),
        fun last unlocked => tested (resumes.trans (advanceFrom_due last unlocked)),
        fun last locked => tested (resumes.trans (advanceFrom_full last locked))⟩

end Sys2Proof.Machine
end

section
/-! PROOFS. READ_LOG, LOCK_SECTIONS, UNLOCK_SECTIONS and WRITE_CONFIG, test by test (R190 to R192, R205, R209, R210;
log 20). -/

namespace Sys2Proof.Machine

/-! ## READ_LOG (R192) -/

section
variable {s : State} {page count first last : Nat} {bytes : List Byte}

theorem readLog_invalid (h : ¬(page ≤ 4095 ∧ 1 ≤ count ∧ count ≤ 8)) : s.readLog page count = s.invalid :=
  if_pos (by omega)

theorem readLog_inRange (h : page ≤ 4095 ∧ 1 ≤ count ∧ count ≤ 8) : s.readLog page count =
    if s.log.state = .scanning then s.busy
    else s.ok (.log (s.readPages page count) s.log.locks s.log.writePos s.log.state) :=
  if_neg (by omega)

/-! ## LOCK_SECTIONS and UNLOCK_SECTIONS (R190, R191) -/

theorem sectionsValid_iff : sectionsValid first last = true ↔ first ≤ last ∧ last ≤ 63 := by
  unfold sectionsValid
  rw [Bool.and_eq_true, decide_eq_true_iff, decide_eq_true_iff]

theorem sectionsValid_false (h : ¬(first ≤ last ∧ last ≤ 63)) : (!sectionsValid first last) = true := by
  rw [Bool.eq_false_iff.mpr (mt sectionsValid_iff.mp h)]; rfl

/-- The write position, if there is one, lies outside the sections first to last. -/
theorem writesWithin_false_iff {l : LogStore} : l.writesWithin first last = false ↔
    ∀ p, l.writePos = some p → sectionOf p < first ∨ last < sectionOf p := by
  unfold LogStore.writesWithin
  cases l.writePos with
  | none => exact iff_of_true rfl nofun
  | some p =>
    rw [Option.any_some, Bool.and_eq_false_iff, decide_eq_false_iff_not, decide_eq_false_iff_not, Nat.not_le,
      Nat.not_le]
    exact ⟨fun away q same => Option.some.inj same ▸ away, fun away => away p rfl⟩

theorem lock_scanning (h : s.log.state = .scanning) : s.lock first last = s.busy := if_pos h

theorem lock_invalid (ready : s.log.state ≠ .scanning) (h : ¬(first ≤ last ∧ last ≤ 63)) :
    s.lock first last = s.invalid :=
  (if_neg ready).trans (if_pos (sectionsValid_false h))

theorem lock_valid (ready : s.log.state ≠ .scanning) (h : first ≤ last ∧ last ≤ 63) : s.lock first last =
    if s.log.writesWithin first last then s.invalid
    else s.askArea (.lockTable (s.log.locks ||| sectionMask first last)) := by
  unfold State.lock
  rw [if_neg ready, sectionsValid_iff.mpr h]
  rfl

theorem lock_writeSection (ready : s.log.state ≠ .scanning) (h : first ≤ last ∧ last ≤ 63)
    (writes : ¬∀ p, s.log.writePos = some p → sectionOf p < first ∨ last < sectionOf p) :
    s.lock first last = s.invalid :=
  (lock_valid ready h).trans (if_pos (Bool.not_eq_false _ ▸ mt writesWithin_false_iff.mp writes))

theorem lock_asks (ready : s.log.state ≠ .scanning) (h : first ≤ last ∧ last ≤ 63)
    (away : ∀ p, s.log.writePos = some p → sectionOf p < first ∨ last < sectionOf p) :
    s.lock first last = s.askArea (.lockTable (s.log.locks ||| sectionMask first last)) :=
  (lock_valid ready h).trans (if_neg (Bool.eq_false_iff.mp (writesWithin_false_iff.mpr away)))

theorem unlock_shielded (h : s.pins.protect = true) : s.unlock first last = s.shielded := if_pos h

theorem unlock_open (h : s.pins.protect = false) : s.unlock first last =
    if s.log.state = .scanning then s.busy
    else if !sectionsValid first last then s.invalid
    else s.askArea (.lockTable (s.log.locks &&& ~~~(sectionMask first last))) :=
  if_neg (Bool.eq_false_iff.mp h)

theorem unlock_scanning (h : s.pins.protect = false) (scans : s.log.state = .scanning) :
    s.unlock first last = s.busy := (unlock_open h).trans (if_pos scans)

theorem unlock_invalid (h : s.pins.protect = false) (ready : s.log.state ≠ .scanning)
    (out : ¬(first ≤ last ∧ last ≤ 63)) : s.unlock first last = s.invalid :=
  (unlock_open h).trans ((if_neg ready).trans (if_pos (sectionsValid_false out)))

theorem unlock_asks (h : s.pins.protect = false) (ready : s.log.state ≠ .scanning)
    (valid : first ≤ last ∧ last ≤ 63) :
    s.unlock first last = s.askArea (.lockTable (s.log.locks &&& ~~~(sectionMask first last))) := by
  refine (unlock_open h).trans ((if_neg ready).trans (if_neg ?_))
  rw [sectionsValid_iff.mpr valid]
  exact Bool.false_ne_true

/-! ## WRITE_CONFIG (R205) -/

theorem writeConfig_shielded (h : s.pins.protect = true) : s.writeConfig bytes = s.shielded := if_pos h

theorem writeConfig_busy (h : s.pins.protect = false) (busy : s.runningJob ≠ none ∨ s.log.state = .scanning) :
    s.writeConfig bytes = s.busy := by
  refine (if_neg (Bool.eq_false_iff.mp h)).trans ?_
  rcases busy with runs | scans
  · exact if_pos (Option.isSome_iff_ne_none.mpr runs)
  · rw [if_pos scans]
    exact ite_self _

/-- Past the tests of the station the bytes decide. -/
theorem writeConfig_unsound {b : Nat} (h : s.pins.protect = false) (idle : s.runningJob = none)
    (ready : s.log.state ≠ .scanning) (fails : configFailure bytes = some b) :
    s.writeConfig bytes = s.reply .invalid (.fieldFailure b) := by
  unfold State.writeConfig
  rw [if_neg (Bool.eq_false_iff.mp h), idle, if_neg ready, fails]
  rfl

theorem writeConfig_asks (h : s.pins.protect = false) (idle : s.runningJob = none)
    (ready : s.log.state ≠ .scanning) (sound : configFailure bytes = none) :
    s.writeConfig bytes = s.askArea (.config bytes) := by
  unfold State.writeConfig
  rw [if_neg (Bool.eq_false_iff.mp h), idle, if_neg ready, sound]
  rfl

end

/-! ## The tests of a configuration, in their order (R205, R210, log 20) -/

theorem reachEntrySound_eq (bs : List Byte) (r : Nat) : reachEntrySound bs r =
    decide ((cfgNat bs (4 + 3 * r) 1 = 0 ∧ cfgNat bs (4 + 3 * r + 1) 1 = 0 ∧ cfgNat bs (4 + 3 * r + 2) 1 = 0) ∨
      (cfgNat bs (4 + 3 * r) 1 = 1 ∧ cfgNat bs (4 + 3 * r + 1) 1 ≤ cfgNat bs (4 + 3 * r + 2) 1 ∧
        cfgNat bs (4 + 3 * r + 2) 1 < cfgNat bs 1 1)) := by
  have first : 4 + 3 * r + 1 = 5 + 3 * r := by omega
  have last : 4 + 3 * r + 2 = 6 + 3 * r := by omega
  rw [Bool.eq_iff_iff, decide_eq_true_iff, reachEntrySound_iff, first, last]
  rfl

/-- Settles O58: the configuration's tests one by one, then each request by its tests. -/
theorem logRequestsAreTestedInOrder : Obligations.LogRequestsAreTestedInOrder := by
  refine ⟨fun bytes => ?_, fun s listens => ?_⟩
  · intro n h within reach tests
    have fromZero (x high : Nat) : decide (x ≤ high) = within x 0 high :=
      decide_eq_decide.mpr (and_iff_right (Nat.zero_le x)).symm
    have same : configRanges bytes ++ configRelations bytes = tests := by
      unfold configRanges configRelations
      simp only [← Bool.decide_and, reachEntrySound_eq, Bool.beq_eq_decide_eq]
      simp only [fromZero]
      rfl
    exact congrArg firstFailure same
  · intro scanning asks
    have worked (c : Instr) {work : State → State} {t : State} (request : exec c s = s.request c work)
        (h : work (s.working c) = t) : exec c s = .next t.finish := by
      subst h
      exact request.trans (request_of_listens listens c work)
    refine ⟨fun page count => ?_, fun first last => ?_, fun first last => ?_, fun bytes => ?_⟩
    · intro c ranges
      have reads {t : State} := worked c (work := State.readLog page count) (t := t) rfl
      exact ⟨fun out => reads (readLog_invalid out),
        fun inside scans => reads ((readLog_inRange inside).trans (if_pos scans)),
        fun inside ready => reads ((readLog_inRange inside).trans (if_neg ready))⟩
    · intro c outside
      have locks {t : State} := worked c (work := State.lock first last) (t := t) rfl
      exact ⟨fun scans => locks (lock_scanning scans), fun ready out => locks (lock_invalid ready out),
        fun ready rising inside writes => locks (lock_writeSection ready ⟨rising, inside⟩ writes),
        fun ready rising inside away => locks (lock_asks ready ⟨rising, inside⟩ away)⟩
    · intro c
      have unlocks {t : State} := worked c (work := State.unlock first last) (t := t) rfl
      exact ⟨fun shielded => unlocks (unlock_shielded shielded), fun free scans => unlocks (unlock_scanning free scans),
        fun free ready out => unlocks (unlock_invalid free ready out),
        fun free ready rising inside => unlocks (unlock_asks free ready ⟨rising, inside⟩)⟩
    · intro c
      have writes {t : State} := worked c (work := State.writeConfig bytes) (t := t) rfl
      exact ⟨fun shielded => writes (writeConfig_shielded shielded),
        fun free busy => writes (writeConfig_busy free busy),
        fun b free idle ready fails => writes (writeConfig_unsound free idle ready fails),
        fun free idle ready sound => writes (writeConfig_asks free idle ready sound)⟩

end Sys2Proof.Machine
end

section
/-! PROOFS. What the pages of the array hold: a page read, the newest record and CHECKPOINT, the highest dip id, the
next EMPTY page (R178, R186, R193; log 48). -/

namespace Sys2Proof.Machine

/-! ## A page read (R178) -/

section
variable {pages : List (Nat × PageContent)}

theorem readPage_some_iff {p : Nat} {c : PageContent} (rising : pages.Pairwise fun a b => a.1 < b.1) :
    readPage pages p = some c ↔ (p, c) ∈ pages := by
  induction pages with
  | nil => exact iff_of_false nofun List.not_mem_nil
  | cons a rest ih =>
    obtain ⟨q, d⟩ := a
    obtain ⟨below, rising⟩ := List.pairwise_cons.mp rising
    unfold readPage
    by_cases same : q = p
    · subst same
      have absent : (q, c) ∉ rest := fun there => Nat.lt_irrefl q (below _ there)
      rw [if_pos rfl, List.mem_cons, or_iff_left absent, Option.some.injEq, Prod.mk.injEq]
      exact ⟨fun reads => ⟨rfl, reads.symm⟩, fun ⟨_, reads⟩ => reads.symm⟩
    · rw [if_neg same, ih rising, List.mem_cons, Prod.mk.injEq]
      exact (or_iff_right fun first => same first.1.symm).symm

theorem readPage_none_iff {p : Nat} : readPage pages p = none ↔ ∀ q ∈ pages, q.1 ≠ p := by
  induction pages with
  | nil => exact iff_of_true rfl fun q there => absurd there List.not_mem_nil
  | cons a rest ih =>
    unfold readPage
    by_cases same : a.1 = p
    · rw [if_pos same]
      exact iff_of_false nofun fun other => other a List.mem_cons_self same
    · rw [if_neg same, ih, List.forall_mem_cons]
      exact (and_iff_right same).symm

/-! ## The next EMPTY page (R186) -/

theorem nextEmpty_none_iff : ∀ n p : Nat,
    nextEmpty pages n p = none ↔ ∀ x, p ≤ x → x < p + n → readPage pages x ≠ none
  | 0, p => iff_of_true rfl fun _ _ high => absurd high (by omega)
  | n + 1, p => by
    unfold nextEmpty
    by_cases empty : readPage pages p = none
    · rw [if_pos (Option.isNone_iff_eq_none.mpr empty)]
      exact iff_of_false (Option.some_ne_none p) fun full => full p (Nat.le_refl p) (by omega) empty
    · rw [if_neg (mt Option.isNone_iff_eq_none.mp empty), nextEmpty_none_iff n (p + 1)]
      refine ⟨fun full x low high => ?_, fun full x low high => full x (by omega) (by omega)⟩
      obtain rfl | later := Nat.eq_or_lt_of_le low
      · exact empty
      · exact full x later (by omega)

theorem nextEmpty_some_iff {q : Nat} : ∀ n p : Nat, nextEmpty pages n p = some q ↔
    p ≤ q ∧ q < p + n ∧ readPage pages q = none ∧ ∀ x, p ≤ x → x < q → readPage pages x ≠ none
  | 0, p => iff_of_false nofun fun ⟨_, high, _⟩ => absurd high (by omega)
  | n + 1, p => by
    unfold nextEmpty
    by_cases empty : readPage pages p = none
    · rw [if_pos (Option.isNone_iff_eq_none.mpr empty), Option.some.injEq]
      refine ⟨?_, fun ⟨low, _, _, least⟩ => ?_⟩
      · rintro rfl
        exact ⟨Nat.le_refl p, by omega, empty, fun x low high => absurd high (by omega)⟩
      · exact Classical.byContradiction fun other => least p (Nat.le_refl p) (by omega) empty
    · rw [if_neg (mt Option.isNone_iff_eq_none.mp empty), nextEmpty_some_iff n (p + 1)]
      refine ⟨fun ⟨low, high, found, least⟩ => ⟨by omega, by omega, found, fun x from' before => ?_⟩,
        fun ⟨low, high, found, least⟩ => ?_⟩
      · obtain rfl | later := Nat.eq_or_lt_of_le from'
        · exact empty
        · exact least x later before
      · have other : p ≠ q := fun same => empty (same ▸ found)
        exact ⟨by omega, by omega, found, fun x from' before => least x (by omega) before⟩

/-- The pages after a page in its section end where the next section begins. -/
theorem sectionEnd_eq (p : Nat) : p + 1 + (pagesPerSection - 1 - p % pagesPerSection) = 64 * (p / 64 + 1) := by
  unfold pagesPerSection; omega

theorem nextEmptyAfter_some_iff {p q : Nat} : nextEmptyAfter pages p = some q ↔
    p + 1 ≤ q ∧ q < 64 * (p / 64 + 1) ∧ readPage pages q = none ∧
      ∀ x, p + 1 ≤ x → x < q → readPage pages x ≠ none := by
  rw [← sectionEnd_eq]
  exact nextEmpty_some_iff _ _

theorem nextEmptyAfter_none_iff {p : Nat} :
    nextEmptyAfter pages p = none ↔ ∀ x, p < x → x / 64 = p / 64 → readPage pages x ≠ none := by
  refine (nextEmpty_none_iff _ _).trans ?_
  rw [sectionEnd_eq]
  exact ⟨fun full x after same => full x after (by omega), fun full x after before => full x after (by omega)⟩

/-! ## The records of the array (R193) -/

theorem mem_recordsOf {p : Nat} {r : Record} : (p, r) ∈ recordsOf pages ↔ (p, .record r) ∈ pages := by
  unfold recordsOf
  rw [List.mem_filterMap]
  constructor
  · rintro ⟨⟨q, c⟩, there, reads⟩
    cases c with
    | invalid => cases reads
    | record x => cases reads; exact there
  · exact fun there => ⟨_, there, rfl⟩

theorem readPage_record_iff {p : Nat} {r : Record} (rising : pages.Pairwise fun a b => a.1 < b.1) :
    readPage pages p = some (.record r) ↔ (p, r) ∈ recordsOf pages :=
  (readPage_some_iff rising).trans mem_recordsOf.symm

theorem recordsOf_rising (rising : pages.Pairwise fun a b => a.1 < b.1) :
    (recordsOf pages).Pairwise fun a b => a.1 < b.1 := by
  refine List.Pairwise.filterMap _ (fun a b below x first y second => ?_) rising
  split at first <;> cases first
  split at second <;> cases second
  exact below

end

/-! ## The newest of some records (R193, log 48) -/

/-- A record newer than another or, of two with one sequence, on a page no higher. -/
def Newer (a b : Nat × Record) : Prop := b.2.seq < a.2.seq ∨ (b.2.seq = a.2.seq ∧ a.1 ≤ b.1)

section
variable {l : List (Nat × Record)} {a b : Nat × Record}

theorem newestOf_none_iff : newestOf l = none ↔ l = [] := by
  cases l with
  | nil => exact iff_of_true rfl rfl
  | cons a rest =>
    refine iff_of_false (fun absent => ?_) (List.cons_ne_nil _ _)
    unfold newestOf at absent
    split at absent
    · split at absent <;> cases absent
    · cases absent

theorem newestOf_newer (rising : l.Pairwise fun a b => a.1 < b.1) (newest : newestOf l = some a) :
    ∀ b ∈ l, Newer a b := by
  induction l generalizing a with
  | nil => cases newest
  | cons first rest ih =>
    obtain ⟨below, rising⟩ := List.pairwise_cons.mp rising
    unfold newestOf at newest
    split at newest
    · next c found =>
      have among := ih rising found
      split at newest
      · next older =>
        cases newest
        exact List.forall_mem_cons.mpr ⟨.inl older, among⟩
      · next younger =>
        cases newest
        refine List.forall_mem_cons.mpr ⟨.inr ⟨rfl, Nat.le_refl _⟩, fun b there => ?_⟩
        have lower := below b there
        have notNewer := among b there
        unfold Newer at notNewer ⊢
        omega
    · next alone =>
      cases newest
      rw [newestOf_none_iff.mp alone]
      exact List.forall_mem_singleton.mpr (.inr ⟨rfl, Nat.le_refl _⟩)

/-- On rising pages two records on one page are one. -/
theorem eq_of_samePage (rising : l.Pairwise fun a b => a.1 < b.1) (ha : a ∈ l) (hb : b ∈ l) (same : a.1 = b.1) :
    a = b := by
  induction l with
  | nil => cases ha
  | cons first rest ih =>
    obtain ⟨below, rising⟩ := List.pairwise_cons.mp rising
    rcases List.mem_cons.mp ha with rfl | inA <;> rcases List.mem_cons.mp hb with rfl | inB
    · rfl
    · exact absurd same (Nat.ne_of_lt (below b inB))
    · exact absurd same (Nat.ne_of_gt (below a inA))
    · exact ih rising inA inB

theorem newestOf_some_iff (rising : l.Pairwise fun a b => a.1 < b.1) :
    newestOf l = some a ↔ a ∈ l ∧ ∀ b ∈ l, Newer a b := by
  refine ⟨fun newest => ⟨newestOf_mem newest, newestOf_newer rising newest⟩, fun ⟨there, newest⟩ => ?_⟩
  cases found : newestOf l with
  | none => rw [newestOf_none_iff.mp found] at there; cases there
  | some b =>
    have ab := newest b (newestOf_mem found)
    have ba := newestOf_newer rising found a there
    unfold Newer at ab ba
    exact congrArg some (eq_of_samePage rising (newestOf_mem found) there (by omega))

end

theorem isCheckpoint_iff (r : Record) : r.isCheckpoint = true ↔
    ∃ balance applied ownNext ticket, r.body = .checkpoint balance applied ownNext ticket := by
  unfold Record.isCheckpoint
  cases r.body with
  | checkpoint balance applied ownNext ticket => exact iff_of_true rfl ⟨balance, applied, ownNext, ticket, rfl⟩
  | _ => exact iff_of_false Bool.false_ne_true fun ⟨_, _, _, _, other⟩ => nomatch other

theorem newestCheckpoint_none_iff {pages : List (Nat × PageContent)} :
    newestCheckpoint pages = none ↔ ∀ q ∈ recordsOf pages, ¬q.2.isCheckpoint = true := by
  unfold newestCheckpoint
  rw [Option.map_eq_none_iff, newestOf_none_iff, List.filter_eq_nil_iff]

theorem newestCheckpoint_some_iff {pages : List (Nat × PageContent)} {b : RecordBody}
    (rising : pages.Pairwise fun a b => a.1 < b.1) : newestCheckpoint pages = some b ↔
      ∃ a, (a ∈ recordsOf pages ∧ a.2.isCheckpoint = true) ∧ a.2.body = b ∧
        ∀ c ∈ recordsOf pages, c.2.isCheckpoint = true → Newer a c := by
  unfold newestCheckpoint
  rw [Option.map_eq_some_iff]
  simp only [newestOf_some_iff ((recordsOf_rising rising).filter _), List.mem_filter, and_imp, and_assoc,
    and_comm (a := _ = b)]

/-! ## The highest dip id (R193) -/

/-- The highest dip id is that of a record, or 0, and none is higher. -/
theorem highestDipId_max (pages : List (Nat × PageContent)) :
    (highestDipId pages = 0 ∨ ∃ q ∈ recordsOf pages, q.2.dipId = highestDipId pages) ∧
      ∀ q ∈ recordsOf pages, q.2.dipId ≤ highestDipId pages := by
  have folded : highestDipId pages = ((recordsOf pages).map fun q => q.2.dipId).foldl max 0 := List.foldl_map.symm
  have highest : (0 :: (recordsOf pages).map fun q => q.2.dipId).max? = some (highestDipId pages) := by
    rw [folded]; rfl
  obtain ⟨there, above⟩ := List.max?_eq_some_iff.mp highest
  rw [List.mem_cons, List.mem_map] at there
  exact ⟨there, fun q has => above _ (List.mem_cons_of_mem _ (List.mem_map_of_mem has))⟩

theorem dipId_dip {r : Record} {d : DipRecord} (h : r.body = .dip d) : r.dipId = d.dipId := by
  unfold Record.dipId; rw [h]

/-- Only a DIP record has a dip id other than 0. -/
theorem dip_of_dipId {r : Record} (h : r.dipId ≠ 0) : ∃ d, r.body = .dip d ∧ d.dipId = r.dipId := by
  cases body : r.body with
  | dip d => exact ⟨d, rfl, (dipId_dip body).symm⟩
  | _ => exact absurd (by unfold Record.dipId; rw [body]) h

end Sys2Proof.Machine
end

section
/-! PROOFS. The end of the start-up scan: what it hands on to the account, the jobs and the log, and where it finds to
write (R69, R91, R181, R186, R188, R193; logs 48, 53). -/

namespace Sys2Proof.Machine

/-! ## What the scan hands on (R69, R91, R193) -/

/-- What the scan hands on: the next dip id, the account but for its committed amount, the ticket counter, the next
record sequence, and whether ACCOUNT_EVENT stands. -/
def State.handedOn (s : State) : Nat × Account × Nat × Nat × Bool :=
  (s.jobs.nextDipId, { s.account with committed := 0 }, s.roster.ticketCounter, s.log.nextSeq,
    s.port.flags.accountEvent)

/-- The next record sequence that the scan finds. -/
def nextSeqOf (pages : List (Nat × PageContent)) : Nat := ((newestRecord pages).map fun q => heldInc q.2.seq).getD 1

/-- The station with the newest checkpoint, the next dip id and the next record sequence, before the write position. -/
def State.scanLoaded (s : State) : State :=
  { s.loadCheckpoint (newestCheckpoint s.flash.pages) with
    jobs := { (s.loadCheckpoint (newestCheckpoint s.flash.pages)).jobs with
      nextDipId := dipIdAfter (highestDipId s.flash.pages) }
    log := { (s.loadCheckpoint (newestCheckpoint s.flash.pages)).log with nextSeq := nextSeqOf s.flash.pages } }

section
variable {s : State} {p : Nat} {r : Record}

theorem loadCheckpoint_log (c : Option RecordBody) (s : State) : (s.loadCheckpoint c).log = s.log := by
  unfold State.loadCheckpoint; split <;> rfl

theorem scanLoaded_log (s : State) : s.scanLoaded.log = { s.log with nextSeq := nextSeqOf s.flash.pages } :=
  congrArg (fun l : LogStore => { l with nextSeq := nextSeqOf s.flash.pages }) (loadCheckpoint_log _ s)

theorem scanLoaded_pages (s : State) : s.scanLoaded.flash.pages = s.flash.pages :=
  congrArg FlashArray.pages (loadCheckpoint_flash _ s)

theorem scanLoaded_locks (s : State) : s.scanLoaded.log.locks = s.log.locks := by rw [scanLoaded_log]

theorem takeScan_newest (newest : newestRecord s.flash.pages = some (p, r)) :
    s.takeScan = s.scanLoaded.scanAfter p := by
  unfold State.takeScan State.scanLoaded nextSeqOf
  dsimp only
  rw [newest]
  rfl

theorem takeScan_none (absent : newestRecord s.flash.pages = none) : s.takeScan = s.scanLoaded.scanEmpty := by
  unfold State.takeScan State.scanLoaded nextSeqOf
  dsimp only
  rw [absent]
  rfl

/-! The write position is no part of what is handed on. -/

theorem advanceFrom_handedOn (p : Nat) (s : State) : (s.advanceFrom p).handedOn = s.handedOn := by
  unfold State.advanceFrom State.lookAhead
  split
  · rfl
  · split <;> rfl

theorem scanAfter_handedOn (p : Nat) (s : State) : (s.scanAfter p).handedOn = s.handedOn := by
  unfold State.scanAfter
  split
  · rfl
  · exact advanceFrom_handedOn p _

theorem scanEmpty_handedOn (s : State) : s.scanEmpty.handedOn = s.handedOn := by
  unfold State.scanEmpty
  split
  · rfl
  · split <;> rfl

theorem takeScan_handedOn (s : State) : s.takeScan.handedOn = s.scanLoaded.handedOn := by
  cases newest : newestRecord s.flash.pages with
  | none => rw [takeScan_none newest, scanEmpty_handedOn]
  | some q => rw [takeScan_newest newest, scanAfter_handedOn]

/-! Nor does the station leave any of it behind with LOADING. -/

theorem post_found (d : Dest) (p : Payload) (s : State) : (s.post d p).handedOn = s.handedOn ∧
    (s.post d p).log = s.log ∧ (s.post d p).port.flags.logFull = s.port.flags.logFull := by
  unfold State.post
  split
  · split
    · dsimp only
      split <;> exact ⟨rfl, rfl, rfl⟩
    · exact ⟨rfl, rfl, rfl⟩
  · exact ⟨rfl, rfl, rfl⟩

theorem enterListening_found (s : State) : s.enterListening.handedOn = s.handedOn ∧
    s.enterListening.log = s.log ∧ s.enterListening.port.flags.logFull = s.port.flags.logFull := by
  rw [enterListening_eq]
  simp only [post_found]
  exact ⟨rfl, rfl, rfl⟩

theorem enterIsolated_found (why : IsolationReason) (s : State) : (s.enterIsolated why).handedOn = s.handedOn ∧
    (s.enterIsolated why).log = s.log ∧ (s.enterIsolated why).port.flags.logFull = s.port.flags.logFull := by
  rw [enterIsolated_eq]
  exact ⟨rfl, rfl, rfl⟩

theorem leaveLoading_found (s : State) : s.leaveLoading.handedOn = s.handedOn ∧
    s.leaveLoading.log = s.log ∧ s.leaveLoading.port.flags.logFull = s.port.flags.logFull := by
  unfold State.leaveLoading
  split
  · exact enterIsolated_found _ s
  · split
    · exact enterIsolated_found _ s
    · exact enterListening_found s

/-- A checkpoint, when the log holds one, gives the account and raises the ticket counter. -/
theorem loadCheckpoint_some {balance : Nat} {applied : Vector Nat 8} {ownNext ticket : Nat} (s : State) :
    s.loadCheckpoint (some (.checkpoint balance applied ownNext ticket)) =
      (s.setAccount { s.account with
        balance := balance, applied := applied, ownNext := ownNext, ownSpent := applied[s.own] == max32
        sinceCheckpoint := 0 }).raiseTicket ticket := rfl

/-! ## Where the scan finds to write (R188, R193) -/

theorem scanAfter_locked (locked : sectionLocked s.log.locks (sectionOf p) = true) : s.scanAfter p =
    (s.setLog { s.log with state := .full, writePos := none, blocked := some ⟨sectionOf p, false⟩ }).raise .logFull :=
  if_pos locked

/-- The log OPEN, with its write position still at the newest record's page. -/
def State.openedAt (p : Nat) (s : State) : State := s.setLog { s.log with state := .opened, writePos := some p }

theorem scanAfter_open (unlocked : sectionLocked s.log.locks (sectionOf p) = false) :
    s.scanAfter p = (s.openedAt p).advanceFrom p :=
  if_neg (Bool.eq_false_iff.mp unlocked)

/-- No page listed lies in section 0 when each of its pages reads EMPTY. -/
theorem section0_empty_iff {pages : List (Nat × PageContent)} :
    (pages.all fun q => sectionOf q.1 != 0) = true ↔ ∀ p < 64, readPage pages p = none := by
  simp only [List.all_eq_true, bne_iff_ne, readPage_none_iff]
  refine ⟨fun away p below q there same => away q there ?_, fun empty q there inside => ?_⟩
  · unfold sectionOf pagesPerSection; omega
  · unfold sectionOf pagesPerSection at inside
    exact empty q.1 (by omega) q there rfl

theorem scanEmpty_locked (locked : sectionLocked s.log.locks 0 = true) : s.scanEmpty =
    (s.setLog { s.log with state := .full, writePos := none, blocked := some ⟨0, true⟩ }).raise .logFull :=
  if_pos locked

theorem scanEmpty_clear (unlocked : sectionLocked s.log.locks 0 = false)
    (clear : ∀ p < 64, readPage s.flash.pages p = none) :
    s.scanEmpty = s.setLog { s.log with state := .opened, writePos := some 0 } :=
  (if_neg (Bool.eq_false_iff.mp unlocked)).trans (if_pos (section0_empty_iff.mpr clear))

theorem scanEmpty_due (unlocked : sectionLocked s.log.locks 0 = false)
    (written : ∃ p < 64, readPage s.flash.pages p ≠ none) :
    s.scanEmpty = s.setLog { s.log with state := .opened, writePos := some 0, eraseDue := some 0 } := by
  refine (if_neg (Bool.eq_false_iff.mp unlocked)).trans (if_neg fun clear => ?_)
  obtain ⟨p, below, full⟩ := written
  exact full (section0_empty_iff.mp clear p below)

end

/-- Settles O11: what is handed on by the newest records; the write position by the locks and the pages; then what the
newest records, the highest dip id and the next EMPTY page are. -/
theorem scanHandsOnAndFindsWhereToWrite : Obligations.ScanHandsOnAndFindsWhereToWrite := by
  refine ⟨fun s loading scanning => ⟨_, exec_scanEnd loading scanning, ?_⟩,
    fun s loading scanning => ⟨_, exec_scanEnd loading scanning, ?_⟩, fun pages wf => ?_, fun pages p =>
      ⟨fun n q => nextEmpty_some_iff n p, fun n => nextEmpty_none_iff n p, fun q => nextEmptyAfter_some_iff,
        nextEmptyAfter_none_iff⟩⟩
  · obtain ⟨handed, -⟩ := leaveLoading_found s.takeScan
    replace handed := handed.trans (takeScan_handedOn s)
    simp only [State.handedOn, Prod.mk.injEq] at handed
    obtain ⟨dipId, account, ticket, seq, event⟩ := handed
    rw [scanLoaded_log] at seq
    have balance := congrArg Account.balance account
    have applied := congrArg Account.applied account
    have ownNext := congrArg Account.ownNext account
    have ownSpent := congrArg Account.ownSpent account
    have since := congrArg Account.sinceCheckpoint account
    refine ⟨dipId, fun absent => ?_, fun p r newest => ?_, fun b a n t newest => ?_, fun absent => ?_⟩
    · rw [seq, nextSeqOf, absent]; rfl
    · rw [seq, nextSeqOf, newest]; rfl
    · unfold State.scanLoaded at balance applied ownNext ownSpent since ticket
      rw [newest, loadCheckpoint_some] at balance applied ownNext ownSpent since ticket
      exact ⟨balance, applied, ownNext, ownSpent, since, ticket⟩
    · unfold State.scanLoaded at balance applied ownNext ownSpent event
      rw [absent] at balance applied ownNext ownSpent event
      exact ⟨balance, applied, ownNext, ownSpent, event⟩
  · obtain ⟨-, log, full⟩ := leaveLoading_found s.takeScan
    rw [log, full]
    have locks := scanLoaded_locks s
    have pages := scanLoaded_pages s
    refine ⟨fun p r newest => ?_, fun absent => ?_⟩
    · rw [takeScan_newest newest, ← locks, ← pages]
      refine ⟨fun locked => ?_, fun unlocked => ?_⟩
      · rw [scanAfter_locked locked]
        exact ⟨rfl, rfl, rfl, rfl⟩
      · rw [scanAfter_open unlocked]
        refine ⟨fun q next => ?_, fun last => ⟨fun locked => ?_, fun unlocked => ?_⟩⟩
        · rw [advanceFrom_moves (s := s.scanLoaded.openedAt p) next]
          exact ⟨rfl, rfl⟩
        · rw [advanceFrom_full (s := s.scanLoaded.openedAt p) last locked]
          exact ⟨rfl, rfl, rfl, rfl⟩
        · rw [advanceFrom_due (s := s.scanLoaded.openedAt p) last unlocked]
          exact ⟨rfl, rfl⟩
    · rw [takeScan_none absent, ← locks, ← pages]
      refine ⟨fun locked => ?_, fun unlocked => ?_⟩
      · rw [scanEmpty_locked locked]
        exact ⟨rfl, rfl, rfl, rfl⟩
      · have due : s.scanLoaded.log.eraseDue = s.log.eraseDue := by rw [scanLoaded_log]
        by_cases clear : ∀ p < 64, readPage s.scanLoaded.flash.pages p = none
        · rw [scanEmpty_clear unlocked clear]
          exact ⟨rfl, rfl, fun _ => due, fun ⟨p, below, written⟩ => absurd (clear p below) written⟩
        · obtain ⟨p, written⟩ := Classical.not_forall.mp clear
          rw [scanEmpty_due unlocked ⟨p, Classical.not_imp.mp written⟩]
          exact ⟨rfl, rfl, fun empty => absurd empty clear, fun _ => rfl⟩
  · obtain ⟨rising, -⟩ := (pagesWf_iff pages).mp wf
    have records := recordsOf_rising rising
    obtain ⟨attained, highest⟩ := highestDipId_max pages
    intro holds isCheckpoint after
    have onPage (p : Nat) (r : Record) : holds p r ↔ (p, r) ∈ recordsOf pages := readPage_record_iff rising
    have checks (r : Record) : isCheckpoint r ↔ r.isCheckpoint = true := (isCheckpoint_iff r).symm
    simp only [onPage, checks]
    refine ⟨fun p r => ?_, ?_, fun b => ?_, ?_, fun p r d has body => ?_, ?_⟩
    · exact (newestOf_some_iff records).trans (and_congr_right fun _ => Prod.forall)
    · exact newestOf_none_iff.trans (List.eq_nil_iff_forall_not_mem.trans Prod.forall)
    · refine (newestCheckpoint_some_iff rising).trans ?_
      simp only [Prod.exists, Prod.forall, and_assoc]
      rfl
    · exact newestCheckpoint_none_iff.trans Prod.forall
    · rw [← dipId_dip body]
      exact highest _ has
    · by_cases zero : highestDipId pages = 0
      · exact .inl zero
      · obtain ⟨⟨p, r⟩, has, top⟩ := attained.resolve_left zero
        obtain ⟨d, body, same⟩ := dip_of_dipId (r := r) (top ▸ zero)
        exact .inr ⟨p, r, d, has, body, same.trans top⟩

end Sys2Proof.Machine
end

section
/-! PROOFS. The exchange of the controller port: spoiled, ignored and unknown requests, and the answer that echoes its
request's code (R195 to R198; log 24). -/

namespace Sys2Proof.Machine

/-! ## The exchange (R195) -/

/-- The exchange: the port's state, the request in progress and the answer being sent. -/
def State.exchange (s : State) : PortState × Option Instr × Option Answer :=
  (s.port.state, s.port.request, s.port.answer)

/-- `t` answers the request in progress of `s`, with its code (R197). -/
def Answers (s t : State) : Prop :=
  ∃ x p, t.exchange = (.answering, s.port.request, some ⟨s.portCode, x, p⟩)

/-- `t` answers the request in progress of `s`, or leaves the port as it is, to answer later. -/
def AnswersOrWaits (s t : State) : Prop := Answers s t ∨ t.exchange = s.exchange

/-- The requests that wait for their area write before the port answers (R190, R191, R205). -/
def AsksArea (c : Instr) : Prop :=
  (∃ x y, c = .lockSections x y) ∨ (∃ x y, c = .unlockSections x y) ∨ ∃ bytes, c = .writeConfig bytes

section
variable {s t u : State}

theorem exchange_eq_iff {state : PortState} {request : Option Instr} {answer : Option Answer} :
    t.exchange = (state, request, answer) ↔
      t.port.state = state ∧ t.port.request = request ∧ t.port.answer = answer := by
  simp only [State.exchange, Prod.mk.injEq]

/-- The exchange is among the parts that no operation below a command changes. -/
theorem exchange_of_fixed (h : t.fixed = s.fixed) : t.exchange = s.exchange := by
  simp only [State.fixed, Prod.mk.injEq] at h
  obtain ⟨-, -, -, -, -, -, port⟩ := h
  simp only [ControllerPort.mk.injEq] at port
  obtain ⟨state, request, answer, -⟩ := port
  exact exchange_eq_iff.mpr ⟨state, request, answer⟩

theorem Keeps.exchange (h : Keeps s t) : t.exchange = s.exchange := exchange_of_fixed h.fixed

/-- What comes before the answer may change all but the exchange. -/
theorem Answers.after (h : Answers t u) (e : t.exchange = s.exchange) : Answers s u := by
  obtain ⟨-, request, -⟩ := exchange_eq_iff.mp e
  unfold Answers State.portCode at h
  rw [request] at h
  exact h

theorem Answers.ite {c : Prop} [Decidable c] (ht : Answers s t) (hu : Answers s u) :
    Answers s (if c then t else u) := by split <;> assumption

theorem Answers.orWaits (h : Answers s t) : AnswersOrWaits s t := .inl h

theorem AnswersOrWaits.ite {c : Prop} [Decidable c] (ht : AnswersOrWaits s t) (hu : AnswersOrWaits s u) :
    AnswersOrWaits s (if c then t else u) := by split <;> assumption

end

/-! ## Each request answers -/

theorem reply_answers (x : Status) (p : AnswerPayload) (s : State) : Answers s (s.reply x p) := ⟨x, p, rfl⟩
theorem ok_answers (p : AnswerPayload) (s : State) : Answers s (s.ok p) := reply_answers _ _ s
theorem busy_answers (s : State) : Answers s s.busy := reply_answers _ _ s
theorem invalid_answers (s : State) : Answers s s.invalid := reply_answers _ _ s
theorem refuse_answers (r : RefusedReason) (s : State) : Answers s (s.refuse r) := reply_answers _ _ s
theorem shielded_answers (s : State) : Answers s s.shielded := reply_answers _ _ s
theorem notActive_answers (s : State) : Answers s s.notActive := reply_answers _ _ s

/-- OK after an operation below a command. -/
theorem Keeps.ok_answers {s t : State} (h : Keeps s t) (p : AnswerPayload) : Answers s (t.ok p) :=
  (Machine.ok_answers p t).after h.exchange

theorem status_answers (s : State) : Answers s ((s.ok (.status s.view)).takeFlags.markRead) := ⟨_, _, rfl⟩

theorem readJobList_answers (s : State) : Answers s
    (s.ok (.jobs (s.jobs.list.map s.jobView) (s.jobs.claimWait.map fun w => w.remaining s.now)
      s.jobs.lastResult)).markRead := ⟨_, _, rfl⟩

theorem acknowledge_answers (named : FlagSet) (s : State) : Answers s (s.acknowledge named) :=
  (ok_answers _ _).after rfl

theorem submit_answers (tag : BitVec 16) (slot : Nat) (sp : Span) (draw limit : Nat) (s : State) :
    Answers s (s.submit tag slot sp draw limit) :=
  .ite (notActive_answers s) <| .ite (invalid_answers s) <| .ite (refuse_answers _ s) <| .ite (refuse_answers _ s) <|
    .ite (refuse_answers _ s) <| .ite (busy_answers s) <| (ok_answers _ _).after rfl

theorem cancel_answers (j : Job) (s : State) : Answers s (s.cancel j) := by
  have ended (u : State) : Keeps u (u.endEarly j .cancelled none) := endEarly_keeps _ _ _ u
  unfold State.cancel
  split
  · exact (ended s).ok_answers _
  · exact (ended s).ok_answers _
  · exact (ended s).ok_answers _
  · split
    · exact ((endClaim_keeps _ s).trans (ended _)).ok_answers _
    · exact (ended s).ok_answers _
  · exact .ite (ok_answers _ s) (((updateHead_keeps _ s).trans (testCancel_keeps _)).ok_answers _)
  · exact busy_answers s

theorem cancelJob_answers (tag : BitVec 16) (s : State) : Answers s
    (match s.jobs.list.find? (·.tag == tag) with
      | some j => s.cancel j
      | none => s.refuse .unknownTag) := by
  split
  · exact cancel_answers _ s
  · exact refuse_answers _ s

theorem readProgram_answers (slot : Nat) (s : State) :
    Answers s (if slot < 8 then s.ok (.program (s.program slot)) else s.invalid) :=
  .ite (ok_answers _ s) (invalid_answers s)

theorem load_answers (slot : Nat) (segs : List RawSegment) (s : State) : Answers s (s.load slot segs) := by
  unfold State.load
  split
  · refine .ite (invalid_answers s) (.ite (busy_answers s) ?_)
    split
    · exact reply_answers _ _ s
    · exact (ok_answers _ _).after rfl
  · exact invalid_answers s

theorem hostEntry_answers (kind : EntryKind) (amount : Int) (inRange : Bool) (s : State) :
    Answers s (s.hostEntry kind amount inRange) := by
  refine .ite (notActive_answers s) <| .ite (invalid_answers s) <| .ite (busy_answers s) <| .ite (busy_answers s) ?_
  split
  · exact busy_answers s
  · exact ((originate_keeps _ _ _ s).trans (placeReady_keeps _ _ _)).ok_answers _

theorem hostCheckpoint_answers (s : State) : Answers s s.hostCheckpoint := by
  refine .ite (notActive_answers s) (.ite (busy_answers s) ?_)
  split
  · next placed => exact ((askCheckpoint_keeps s).trans (placeCheckpoint_keeps placed)).ok_answers _
  · exact (askCheckpoint_keeps s).ok_answers _

theorem pause_answers (s : State) : Answers s ((s.latch .pause .host).ok (.disposition s.pauseDisposition)) :=
  (latch_keeps _ _ s).ok_answers _

theorem allStop_answers (s : State) : Answers s ((s.latch .stop .allStop).driveBreak.ok .empty) :=
  (ok_answers _ _).after (latch_keeps .stop .allStop s).exchange

/-- RESUME's work changes nothing of the exchange before it answers. -/
theorem resume_exchange {s : State} {e : HoldEntry} {rest : List HoldEntry} (top : s.holds.stack = e :: rest) :
    (s.resume e rest).exchange = s.exchange := by
  have popped := (popHold_keeps s top { s.holds with stack := rest, mask := s.holds.mask.addMask e.cls } rfl).trans
    (enterPending_keeps _)
  unfold State.resume
  dsimp only
  split
  · exact (popped.trans (carryOutCancel_keeps _)).exchange
  split
  · exact (popped.trans (freeEndLift_keeps _)).exchange
  · exact (exchange_of_fixed (goOn_fixes rest e.context _).1).trans popped.exchange

theorem hostResume_answers (s : State) : Answers s s.hostResume := by
  unfold State.hostResume
  split
  · exact refuse_answers _ s
  next top =>
    split
    · exact refuse_answers _ s
    · exact ((settle_keeps _).ok_answers _).after (resume_exchange top)

theorem beginHostLift_keeps (s : State) : Keeps s s.beginHostLift := by
  have begun (u : State) :
      Keeps u (u.setSeq { u.seq with activity := .lift, liftFor := some .host, hostLift := .lifting }) :=
    setSeq_keeps _ u (by exact id)
  exact ((clearMarks_keeps s).trans (begun _)).trans (postLiftMoves_keeps _)

theorem liftClear_answers (s : State) : Answers s s.liftClear :=
  .ite (notActive_answers s) <| .ite (refuse_answers _ s) <| .ite (busy_answers s) <| .ite (refuse_answers _ s) <|
    .ite (busy_answers s) <| (beginHostLift_keeps s).ok_answers _

theorem vacate_answers (rank : Nat) (s : State) : Answers s (s.vacate rank) := by
  refine .ite (notActive_answers s) ?_
  split
  · exact invalid_answers s
  · exact .ite (invalid_answers s) (((vacateRank_keeps _ s).trans (post_keeps _ _ _)).ok_answers _)

theorem readLog_answers (page count : Nat) (s : State) : Answers s (s.readLog page count) :=
  .ite (invalid_answers s) (.ite (busy_answers s) (ok_answers _ s))

/-! ## The requests that may wait for an area write -/

theorem askArea_waits (target : AreaTarget) (s : State) : AnswersOrWaits s (s.askArea target) := .inr rfl

theorem lock_ends (first last : Nat) (s : State) : AnswersOrWaits s (s.lock first last) :=
  .ite (busy_answers s).orWaits <| .ite (invalid_answers s).orWaits <| .ite (invalid_answers s).orWaits <|
    askArea_waits _ s

theorem unlock_ends (first last : Nat) (s : State) : AnswersOrWaits s (s.unlock first last) :=
  .ite (shielded_answers s).orWaits <| .ite (busy_answers s).orWaits <| .ite (invalid_answers s).orWaits <|
    askArea_waits _ s

theorem writeConfig_ends (bytes : List Byte) (s : State) : AnswersOrWaits s (s.writeConfig bytes) := by
  refine .ite (shielded_answers s).orWaits <| .ite (busy_answers s).orWaits <| .ite (busy_answers s).orWaits ?_
  split
  · exact (reply_answers _ _ s).orWaits
  · exact askArea_waits _ s

/-! ## Every request (R212) -/

/-- `c` is a request, its work is `work`, and the work answers it or waits for its area write. -/
structure ServedBy (c : Instr) (work : State → State) : Prop where
  exec : ∀ s, Machine.exec c s = s.request c work
  ends : ∀ s, Answers s (work s) ∨ AsksArea c ∧ (work s).exchange = s.exchange

theorem served_of_answers {c : Instr} {work : State → State} (answers : ∀ s, Answers s (work s))
    (h : ∀ s, exec c s = s.request c work) : ∃ work, ServedBy c work :=
  ⟨work, h, fun s => .inl (answers s)⟩

theorem served_of_area {c : Instr} {work : State → State} (h : ∀ s, exec c s = s.request c work) (area : AsksArea c)
    (ends : ∀ s, AnswersOrWaits s (work s)) : ∃ work, ServedBy c work :=
  ⟨work, h, fun s => (ends s).imp_right fun waits => ⟨area, waits⟩⟩

theorem unknownRequest_served (code : Byte) : ∃ work, ServedBy (.unknownRequest code) work :=
  served_of_answers invalid_answers fun _ => rfl

/-- A command with a request code is a request. -/
theorem served_of_code {c : Instr} (coded : requestCode c ≠ 0) : ∃ work, ServedBy c work := by
  cases c
  case unknownRequest code => exact unknownRequest_served code
  case status => exact served_of_answers status_answers fun _ => rfl
  case acknowledge => exact served_of_answers (acknowledge_answers _) fun _ => rfl
  case readAccount => exact served_of_answers (fun t => ok_answers (.account t.accountView) t) fun _ => rfl
  case readTable =>
    exact served_of_answers
      (fun t => ok_answers (.table t.claims.table t.roster.ticketCounter t.claims.ownCounter) t) fun _ => rfl
  case readJobList => exact served_of_answers readJobList_answers fun _ => rfl
  case readIdentity => exact served_of_answers (fun t => ok_answers (.identity t.identityView) t) fun _ => rfl
  case submitJob => exact served_of_answers (submit_answers _ _ _ _ _) fun _ => rfl
  case cancelJob tag => exact served_of_answers (cancelJob_answers tag) fun _ => rfl
  case loadProgram => exact served_of_answers (load_answers _ _) fun _ => rfl
  case readProgram => exact served_of_answers (readProgram_answers _) fun _ => rfl
  case charge => exact served_of_answers (hostEntry_answers _ _ _) fun _ => rfl
  case skim => exact served_of_answers (hostEntry_answers _ _ _) fun _ => rfl
  case adjust => exact served_of_answers (hostEntry_answers _ _ _) fun _ => rfl
  case checkpoint => exact served_of_answers hostCheckpoint_answers fun _ => rfl
  case pause => exact served_of_answers pause_answers fun _ => rfl
  case resume => exact served_of_answers hostResume_answers fun _ => rfl
  case allStop => exact served_of_answers allStop_answers fun _ => rfl
  case liftClear => exact served_of_answers liftClear_answers fun _ => rfl
  case vacate => exact served_of_answers (vacate_answers _) fun _ => rfl
  case readLog => exact served_of_answers (readLog_answers _ _) fun _ => rfl
  case lockSections => exact served_of_area (fun _ => rfl) (.inl ⟨_, _, rfl⟩) (lock_ends _ _)
  case unlockSections => exact served_of_area (fun _ => rfl) (.inr (.inl ⟨_, _, rfl⟩)) (unlock_ends _ _)
  case writeConfig => exact served_of_area (fun _ => rfl) (.inr (.inr ⟨_, rfl⟩)) (writeConfig_ends _)
  all_goals exact absurd rfl coded

/-! ## Free and busy ports (R196, R198) -/

section
variable {s : State}

theorem portBusy_iff : s.portBusy = true ↔ s.port.state = .working ∨ s.port.state = .answering := by
  unfold State.portBusy
  rw [Bool.or_eq_true, beq_iff_eq, beq_iff_eq]

theorem badRequest_of_listens (h : s.Listens) : s.badRequest = s.spoilRequest := by
  unfold State.badRequest
  rw [h.1, h.2]
  rfl

theorem badRequest_of_busy (on : s.isOn = true) (busy : s.portBusy = true) : s.badRequest = s.ignoreRequest := by
  unfold State.badRequest
  rw [on, busy]
  rfl

/-- A request that the port takes leaves it ANSWERING with the request's code, or WORKING on an area write. -/
theorem exec_echoes {c : Instr} {t : State} (listens : s.Listens) (h : exec c s = .next t)
    (coded : requestCode c ≠ 0) :
    (∃ x p, t.exchange = (.answering, some c, some ⟨requestCode c, x, p⟩)) ∨
      AsksArea c ∧ t.exchange = (.working, some c, s.port.answer) := by
  obtain ⟨work, served⟩ := served_of_code coded
  rw [served.exec, request_of_listens listens] at h
  obtain rfl := Host.Outcome.next.inj h
  rw [(finish_keeps _).exchange]
  exact served.ends (s.working c)

end

/-- Settles O59: the free port's requests, the busy port's, the end of an answer; then the exchange that each request
leaves. -/
theorem portTakesOneRequestAndEchoesItsCode : Obligations.PortTakesOneRequestAndEchoesItsCode := by
  refine ⟨fun s => ?_, fun c s t listens h coded => ?_⟩
  · intro up ignored spoiled
    refine ⟨fun listens => ?_, fun on busy => ?_, fun answering => if_pos answering⟩
    · have bad : s.badRequest = spoiled := badRequest_of_listens listens
      exact ⟨congrArg _ bad, congrArg _ bad, fun code => request_of_listens listens _ _⟩
    · have on : s.isOn = true := (isOn_iff s).mpr on
      have busy : s.portBusy = true := portBusy_iff.mpr busy
      have bad : s.badRequest = ignored := badRequest_of_busy on busy
      refine ⟨congrArg _ (if_pos busy), congrArg _ bad, congrArg _ bad, fun c request => ?_⟩
      obtain ⟨work, served⟩ : ∃ work, ServedBy c work := by
        obtain coded | ⟨code, rfl⟩ := request
        · exact served_of_code coded
        · exact unknownRequest_served code
      exact (served.exec s).trans (request_of_busy on busy c work)
  · obtain ⟨x, p, ends⟩ | ⟨area, ends⟩ := exec_echoes listens h coded
    · obtain ⟨state, request, answer⟩ := exchange_eq_iff.mp ends
      exact ⟨request, .inl ⟨state, _, answer, rfl⟩⟩
    · obtain ⟨state, request, -⟩ := exchange_eq_iff.mp ends
      exact ⟨request, .inr ⟨state, area⟩⟩

end Sys2Proof.Machine
end

section
/-! PROOFS. STATUS, the reads and ACKNOWLEDGE: what is shown, and which flags are cleared (R199 to R202; logs 23, 33). -/

namespace Sys2Proof.Machine

/-! ## Sets of flags (R199, R201) -/

section
variable (a b : FlagSet) (f : Flag)

theorem FlagSet.has_zip (g : Bool → Bool → Bool) : (a.zip g b).has f = g (a.has f) (b.has f) := by cases f <;> rfl

@[simp] theorem FlagSet.has_inter : (a.inter b).has f = (a.has f && b.has f) := has_zip a b f _

@[simp] theorem FlagSet.has_without : (a.without b).has f = (a.has f && !b.has f) := has_zip a b f _

/-- A mask names each flag by its bit (R212). -/
theorem FlagSet.has_ofMask (mask : BitVec 16) {bit : Nat}
    (named : (f, bit) ∈ [(Flag.jobEnd, 0), (.resultLost, 1), (.holdChange, 2), (.stalePresent, 3), (.logFull, 4),
      (.logFault, 5), (.accountEvent, 6), (.linkError, 7), (.peerChange, 8)]) :
    (FlagSet.ofMask mask).has f = mask.getLsbD bit := by
  simp only [List.mem_cons, Prod.mk.injEq, List.not_mem_nil, or_false] at named
  obtain ⟨rfl, rfl⟩ | ⟨rfl, rfl⟩ | ⟨rfl, rfl⟩ | ⟨rfl, rfl⟩ | ⟨rfl, rfl⟩ | ⟨rfl, rfl⟩ | ⟨rfl, rfl⟩ | ⟨rfl, rfl⟩ |
    ⟨rfl, rfl⟩ := named <;> rfl

end

/-! ## ACKNOWLEDGE (R26, R161, R201) -/

@[simp] theorem ControllerPort.has_reported (p : ControllerPort) (named : FlagSet) (f : Flag) :
    (p.reported named).has f = (named.has f && p.flags.has f && p.snapshot.has f) := by
  simp [ControllerPort.reported]

/-- What is reported can be cleared, but for STALE_PRESENT while a STALE entry stands. -/
theorem has_clearable (s : State) (named : FlagSet) (f : Flag) :
    (s.clearable named).has f = ((s.port.reported named).has f &&
      !(f == .stalePresent && s.claims.table.any ClaimEntry.isStale)) := by
  cases f
  case stalePresent => rfl
  all_goals exact (Bool.and_true _).symm

theorem acknowledge_frame (named : FlagSet) (s : State) :
    s.acknowledge named = { s with port := (s.acknowledge named).port, link := (s.acknowledge named).link } := rfl

theorem acknowledge_flags (named : FlagSet) (s : State) :
    (s.acknowledge named).port.flags = s.port.flags.without (s.clearable named) := rfl

theorem acknowledge_snapshot (named : FlagSet) (s : State) :
    (s.acknowledge named).port.snapshot = s.port.snapshot.without (s.clearable named) := rfl

theorem acknowledge_answer (named : FlagSet) (s : State) : (s.acknowledge named).port.answer =
    some ⟨s.portCode, .ok, .acknowledged (s.clearable named) (s.acknowledge named).port.flags⟩ := rfl

theorem acknowledge_link (named : FlagSet) (s : State) : (s.acknowledge named).link =
    if (s.clearable named).linkError then s.link.clearCounters else s.link := rfl

theorem exec_acknowledge_of_listens {s : State} (h : s.Listens) (mask : BitVec 16) :
    exec (.acknowledge mask) s = .next ((s.working (.acknowledge mask)).acknowledge (FlagSet.ofMask mask)).finish :=
  request_of_listens h _ _

/-! ## STATUS and the reads (R70, R202) -/

theorem jobView_queued {j : Job} (h : j.state = .queued) (s : State) : s.jobView j = ⟨j, none, none⟩ := if_pos h

theorem jobView_active {j : Job} (h : j.state ≠ .queued) (s : State) : s.jobView j =
    ⟨j, s.jobs.claimWait.map fun t => t.start + BitVec.ofNat 32 t.length, s.log.call⟩ := if_neg h

/-- A request answered OK with what the station shows leaves all else of the station as it is. -/
theorem exec_shows {s : State} (listens : s.Listens) {c : Instr} {shown : State → AnswerPayload}
    (request : exec c s = s.request c fun t => t.ok (shown t)) (same : shown (s.working c) = shown s) :
    exec c s = .next ({ s with port := s.answered c .ok (shown s) } : State).finish := by
  rw [request, request_of_listens listens, same]
  rfl

theorem working_view (c : Instr) (s : State) : (s.working c).view = s.view := rfl

theorem exec_status_of_listens {s : State} (h : s.Listens) :
    exec .status s = .next
      ({ s with port := s.answered .status .ok (.status s.view) } : State).takeFlags.markRead.finish := by
  change execStatus s = _
  unfold execStatus
  rw [request_of_listens h, working_view]
  rfl

theorem exec_readJobList_of_listens {s : State} (h : s.Listens) :
    exec .readJobList s = .next ({ s with port := s.answered .readJobList .ok (.jobs (s.jobs.list.map s.jobView)
      (s.jobs.claimWait.map fun w => w.remaining s.now) s.jobs.lastResult) } : State).markRead.finish := by
  change execReadJobList s = _
  unfold execReadJobList
  rw [request_of_listens h]
  rfl

/-- Settles O60: STATUS and the reads as the port takes them, what each shows, and ACKNOWLEDGE by what it clears. -/
theorem readsShowAndAcknowledgeClears : Obligations.ReadsShowAndAcknowledgeClears := by
  refine ⟨fun s listens => ?_, fun s => ?_, fun s mask listens => ?_⟩
  · intro shows read
    refine ⟨exec_status_of_listens listens, ?_, ?_, ?_, exec_readJobList_of_listens listens⟩
    · exact exec_shows listens (shown := fun t => .account t.accountView) rfl rfl
    · exact exec_shows listens
        (shown := fun t => .table t.claims.table t.roster.ticketCounter t.claims.ownCounter) rfl rfl
    · exact exec_shows listens (shown := fun t => .identity t.identityView) rfl rfl
  · intro headroom shown
    have buffer (b : Buffer) : b.shown = shown b := by cases b <;> rfl
    refine ⟨?_, rfl, rfl, fun j => ⟨fun queued => jobView_queued queued s, fun active => jobView_active active s⟩⟩
    unfold State.view
    rw [buffer, buffer]
    rfl
  · have link := acknowledge_link (FlagSet.ofMask mask) (s.working (.acknowledge mask))
    refine ⟨_, (s.working (.acknowledge mask)).clearable (FlagSet.ofMask mask), exec_acknowledge_of_listens listens mask,
      acknowledge_frame _ _, acknowledge_answer _ _, fun f bit named => ⟨?_, ?_, ?_⟩, fun kept => ?_, fun cleared => ?_⟩
    · rw [has_clearable, ControllerPort.has_reported, FlagSet.has_ofMask f mask named]
      rfl
    · exact FlagSet.has_without _ _ f
    · exact FlagSet.has_without _ _ f
    · rw [kept] at link
      exact link
    · rw [cleared] at link
      exact link

end Sys2Proof.Machine
end

section
/-! PROOFS. A step runs the front command (00_scope); the CRC-16 byte by byte, and the check of an area (R208, R210). -/

namespace Sys2Proof.Machine

/-- Settles O1: the queue's front decides what a step does. -/
theorem stepRunsTheFrontCommand : Obligations.StepRunsTheFrontCommand := by
  intro c rest s front
  unfold step
  rw [front]

/-! ## Bytes of a number and the check (R208) -/

/-- A number of two bytes: the high one, then the low one. -/
theorem bytesOf_two (n : Nat) : bytesOf 2 n = [BitVec.ofNat 8 (n / 256), BitVec.ofNat 8 n] := by
  simp [bytesOf]

theorem crc16_concat (bs : List Byte) (b : Byte) : crc16 (bs ++ [b]) = crcByte (crc16 bs) b :=
  List.foldl_append

theorem StoredArea.good_iff (a : StoredArea) : a.good = true ↔ a.check = crc16 a.bytes :=
  beq_iff_eq.trans eq_comm

/-- Settles O8: the register takes one byte after the other, and an area is good by the check stored with it. -/
theorem checkIsTheCrc16 : Obligations.CheckIsTheCrc16 := by
  refine ⟨rfl, crc16_concat, fun bs => bytesOf_two _, ?_, StoredArea.good_iff, fun bs => ⟨rfl, ?_⟩⟩
  · decide +kernel
  · exact (StoredArea.good_iff _).mpr rfl

end Sys2Proof.Machine
end

section
/-! PROOFS. A frame as it is sent is read back whole: what each field of a payload spells, the payload of each kind, and
the frame around it (R156, R206, R208). -/

namespace Sys2Proof.Machine

/-! ## A number and its bytes -/

@[simp] theorem length_bytesOf : ∀ k n : Nat, (bytesOf k n).length = k
  | 0, _ => rfl
  | k + 1, n => congrArg (· + 1) (length_bytesOf k n)

/-- Bytes after others: those before count in full. -/
theorem natOf_foldl_bytesOf (k n m : Nat) :
    (bytesOf k n).foldl (fun x b => x * 256 + b.toNat) m = m * 256 ^ k + n % 256 ^ k := by
  induction k generalizing m with
  | zero => simp [bytesOf, Nat.mod_one]
  | succ k ih =>
      have digit : (BitVec.ofNat 8 (n / 256 ^ k)).toNat = n / 256 ^ k % 256 := BitVec.toNat_ofNat _ _
      rw [bytesOf, List.foldl_cons, ih, digit, Nat.mod_pow_succ, Nat.pow_succ, Nat.add_mul, Nat.mul_assoc,
        Nat.mul_comm 256, Nat.mul_comm (n / 256 ^ k % 256), Nat.add_assoc, Nat.add_comm (n % 256 ^ k)]

theorem natOf_bytesOf {k n : Nat} (fits : fitsBytes k n) : natOf (bytesOf k n) = n := by
  rw [natOf, natOf_foldl_bytesOf, Nat.mod_eq_of_lt fits]
  omega

/-- The number that opens some bytes. -/
theorem fieldAt_first {k n : Nat} (fits : fitsBytes k n) (rest : List Byte) :
    fieldAt (bytesOf k n ++ rest) 0 k = n := by
  rw [fieldAt, List.drop_zero, List.take_left' (length_bytesOf k n), natOf_bytesOf fits]

theorem fieldAt_only {k n : Nat} (fits : fitsBytes k n) : fieldAt (bytesOf k n) 0 k = n := by
  simpa using fieldAt_first fits []

/-- A field that lies past the bytes in front. -/
theorem fieldAt_past {front : List Byte} {m : Nat} (length : front.length = m) {start : Nat} (past : m ≤ start)
    (rest : List Byte) (len : Nat) : fieldAt (front ++ rest) start len = fieldAt rest (start - m) len := by
  subst length
  rw [fieldAt, List.drop_append, List.drop_eq_nil_of_le past]
  rfl

theorem fieldAt_pastNumber {k start : Nat} (past : k ≤ start) (n : Nat) (rest : List Byte) (len : Nat) :
    fieldAt (bytesOf k n ++ rest) start len = fieldAt rest (start - k) len :=
  fieldAt_past (length_bytesOf k n) past rest len

/-! ## Codes: a value is read from its own code, which is of one byte -/

@[simp] theorem ClaimKind.ofCode_code (k : ClaimKind) : ClaimKind.ofCode k.code = some k := by cases k <;> rfl

@[simp] theorem Verdict.ofCode_code (v : Verdict) : Verdict.ofCode v.code = some v := by cases v <;> rfl

@[simp] theorem EntryKind.ofCode_code (k : EntryKind) : EntryKind.ofCode k.code = some k := by cases k <;> rfl

@[simp] theorem StationState.ofCode_code (s : StationState) : StationState.ofCode s.code = some s := by
  cases s <;> rfl

@[simp] theorem AccountState.ofCode_code (a : AccountState) : AccountState.ofCode a.code = some a := by
  cases a <;> rfl

@[simp] theorem bitOfCode_toNat (b : Bool) : bitOfCode b.toNat = some b := by cases b <;> rfl

@[simp] theorem rankOfCode_val (r : Rank) : rankOfCode r.val = some r := dif_pos r.isLt

theorem ClaimKind.code_le (k : ClaimKind) : k.code ≤ 2 := (ofCode_isSome _).mp (by simp)

theorem Verdict.code_le (v : Verdict) : v.code ≤ 2 := (ofCode_isSome _).mp (by simp)

theorem EntryKind.code_le (k : EntryKind) : k.code ≤ 3 := (ofCode_isSome _).mp (by simp)

theorem StationState.code_le (s : StationState) : s.code ≤ 4 := (ofCode_isSome _).mp (by simp)

theorem AccountState.code_le (a : AccountState) : a.code ≤ 3 := (ofCode_isSome _).mp (by simp)

theorem EntryKind.code_eq_zero_iff (k : EntryKind) : k.code = 0 ↔ k = .draw := by cases k <;> decide

/-! ## Signed amounts (12, opening) -/

theorem unsignedOf_fits (k : Nat) (i : Int) : fitsBytes k (unsignedOf k i) := by
  have positive : 0 < 256 ^ k := Nat.pow_pos (by decide)
  have := Int.emod_lt_of_pos i (Int.natCast_pos.mpr positive)
  unfold fitsBytes unsignedOf
  omega

/-- A mass of either sign is read back from its four bytes. -/
theorem signedOf_unsignedOf {i : Int} (mass : i.natAbs ≤ maxMass) : signedOf 4 (unsignedOf 4 i) = i := by
  unfold maxMass at mass
  unfold signedOf unsignedOf
  split <;> omega

/-! ## Applied vectors -/

/-- Items of one length, one after the other. -/
theorem length_flatMap_of_length {α : Type} {f : α → List Byte} {m : Nat} (each : ∀ a, (f a).length = m) :
    ∀ l : List α, (l.flatMap f).length = m * l.length
  | [] => rfl
  | a :: l => by
      rw [List.flatMap_cons, List.length_append, each, length_flatMap_of_length each l, List.length_cons, Nat.mul_succ,
        Nat.add_comm]

@[simp] theorem length_vectorBytes (v : Vector Nat 8) : (vectorBytes v).length = 32 := by
  rw [vectorBytes, length_flatMap_of_length (length_bytesOf 4), Vector.length_toList]

/-- Numbers of four bytes each, one after the other: number `i` begins at byte `4 * i`. -/
theorem fieldAt_numbers (rest : List Byte) : ∀ (l : List Nat) (i : Nat) (here : i < l.length), fitsBytes 4 l[i] →
    fieldAt (l.flatMap (bytesOf 4) ++ rest) (4 * i) 4 = l[i]
  | n :: l, 0, _, fits => by
      rw [List.flatMap_cons, List.append_assoc]
      exact fieldAt_first fits _
  | n :: l, i + 1, here, fits => by
      have next := fieldAt_numbers rest l i (Nat.lt_of_succ_lt_succ here) fits
      rw [List.flatMap_cons, List.append_assoc, fieldAt_pastNumber (by omega)]
      exact next

theorem readVector_first {v : Vector Nat 8} (fits : VectorFits v) (rest : List Byte) :
    readVector (vectorBytes v ++ rest) 0 = v := by
  ext i small
  have element := fieldAt_numbers rest v.toList i (by simpa) (by simpa using fits ⟨i, small⟩)
  simpa [readVector, vectorBytes] using element

theorem readVector_only {v : Vector Nat 8} (fits : VectorFits v) : readVector (vectorBytes v) 0 = v := by
  simpa using readVector_first fits []

theorem readVector_past {front : List Byte} {m : Nat} (length : front.length = m) {start : Nat} (past : m ≤ start)
    (rest : List Byte) : readVector (front ++ rest) start = readVector rest (start - m) := by
  unfold readVector
  simp (disch := omega) only [fieldAt_past length, Nat.sub_add_comm past]

theorem readVector_pastNumber {k start : Nat} (past : k ≤ start) (n : Nat) (rest : List Byte) :
    readVector (bytesOf k n ++ rest) start = readVector rest (start - k) :=
  readVector_past (length_bytesOf k n) past rest

theorem fieldAt_pastVector {start : Nat} (past : 32 ≤ start) (v : Vector Nat 8) (rest : List Byte) (len : Nat) :
    fieldAt (vectorBytes v ++ rest) start len = fieldAt rest (start - 32) len :=
  fieldAt_past (length_vectorBytes v) past rest len

/-! ## The opening of an identity frame -/

@[simp] theorem Identity.length_bytes (id : Identity) : id.bytes.length = 11 := by
  simp [Identity.bytes]

theorem readIdentityFields_first (id : Identity) (rest : List Byte) :
    readIdentityFields (id.bytes ++ rest) = some id := by
  have state := id.state.code_le
  simp (disch := omega) [readIdentityFields, Identity.bytes, fieldAt_pastNumber, fieldAt_first]

theorem readIdentityFields_only (id : Identity) : readIdentityFields id.bytes = some id := by
  simpa using readIdentityFields_first id []

theorem fieldAt_pastIdentity {start : Nat} (past : 11 ≤ start) (id : Identity) (rest : List Byte) (len : Nat) :
    fieldAt (id.bytes ++ rest) start len = fieldAt rest (start - 11) len :=
  fieldAt_past id.length_bytes past rest len

theorem readVector_pastIdentity {start : Nat} (past : 11 ≤ start) (id : Identity) (rest : List Byte) :
    readVector (id.bytes ++ rest) start = readVector rest (start - 11) :=
  readVector_past id.length_bytes past rest

/-! ## Listed claims -/

@[simp] theorem ListedClaim.length_bytes (c : ListedClaim) : c.bytes.length = 13 := by
  simp [ListedClaim.bytes]

theorem readClaim_bytes {c : ListedClaim} (fits : c.Fits) : readClaim c.bytes = some c := by
  obtain ⟨ticket, first, last, mass⟩ := fits
  have kind := c.kind.code_le
  have reservation : fitsBytes 4 c.reservation := Nat.lt_of_le_of_lt mass (by decide)
  simp (disch := omega) [readClaim, ListedClaim.bytes, fieldAt_pastNumber, fieldAt_first, fieldAt_only, mass]

/-- The claims of a STATE are read one after the other. -/
theorem readClaims_bytes : ∀ {cs : List ListedClaim}, (∀ c ∈ cs, c.Fits) →
    readClaims cs.length (cs.flatMap ListedClaim.bytes) = some cs
  | [], _ => rfl
  | c :: cs, fits => by
      obtain ⟨head, tail⟩ := List.forall_mem_cons.mp fits
      have rest := readClaims_bytes tail
      rw [List.flatMap_cons, List.length_cons, readClaims, List.take_left' c.length_bytes,
        List.drop_left' c.length_bytes, readClaim_bytes head, rest]
      rfl

/-! ## A payload of each kind -/

/-- A census of at most two claims stands in its two slots (R206). -/
theorem census_slots : ∀ {census : List (BitVec 16)}, census.length ≤ 2 →
    [BitVec.ofNat 16 (censusSlot census 0), BitVec.ofNat 16 (censusSlot census 1)].take census.length = census
  | [], _ => rfl
  | [a], _ => by simp [censusSlot]
  | [a, b], _ => by simp [censusSlot]
  | _ :: _ :: _ :: _, long => absurd long (by simp)

theorem censusSlot_fits (census : List (BitVec 16)) (i : Nat) : fitsBytes 2 (censusSlot census i) :=
  (census.getD i 0).isLt

theorem readPayload_verdict (n : BitVec 16) (v : Verdict) (bath : Bool) :
    readPayload .verdict (Payload.verdict n v bath).bytes = some (.verdict n v bath) := by
  have code := v.code_le
  have bit := bath.toNat_lt
  simp (disch := omega) [readPayload, Payload.bytes, fieldAt_pastNumber, fieldAt_first, fieldAt_only]

theorem fieldAt_entryCode (seq : Nat) (kind : EntryKind) (amount : Int) (time : Time) (dipId : Option Nat) :
    fieldAt (Payload.entry seq kind amount time dipId).bytes 4 1 = kind.code := by
  have code := kind.code_le
  simp (disch := omega) [Payload.bytes, fieldAt_pastNumber, fieldAt_first]

theorem readPayload_entry {seq : Nat} {kind : EntryKind} {amount : Int} {time : Time} {dipId : Option Nat}
    (fits : (Payload.entry seq kind amount time dipId).Fits) :
    readPayload .entry (Payload.entry seq kind amount time dipId).bytes = some (.entry seq kind amount time dipId) := by
  obtain ⟨seqFits, mass, draws, dipFits⟩ := fits
  have amountFits := unsignedOf_fits 4 amount
  rw [readPayload, fieldAt_entryCode]
  cases dipId with
  | none =>
      have other : kind ≠ .draw := by simpa using draws
      simp (disch := omega) [Payload.bytes, fieldAt_pastNumber, fieldAt_first, fieldAt_only,
        signedOf_unsignedOf mass, mass, other]
  | some d =>
      have draw : kind = .draw := by simpa using draws
      have dip : fitsBytes 4 d := dipFits d rfl
      simp (disch := omega) [Payload.bytes, fieldAt_pastNumber, fieldAt_first, fieldAt_only, signedOf_unsignedOf mass,
        mass, draw]

theorem readPayload_snapshot {n : BitVec 16} {balance : Nat} {applied : Vector Nat 8}
    (fits : (Payload.snapshot n balance applied).Fits) :
    readPayload .snapshot (Payload.snapshot n balance applied).bytes = some (.snapshot n balance applied) := by
  obtain ⟨balanceFits, vector⟩ := fits
  simp (disch := omega) [readPayload, Payload.bytes, fieldAt_pastNumber, fieldAt_first, readVector_pastNumber,
    readVector_only vector]

theorem readPayload_beacon {id : Identity} {f : BeaconFields} (fits : (Payload.beacon id f).Fits) :
    readPayload .beacon (Payload.beacon id f).bytes = some (.beacon id f) := by
  obtain ⟨tickets, census, vector, ownSeq, balance⟩ := fits
  have code := f.account.code_le
  have slot0 := censusSlot_fits f.census 0
  have slot1 := censusSlot_fits f.census 1
  simp (disch := omega) [readPayload, Payload.bytes, readIdentityFields_first, fieldAt_pastIdentity,
    fieldAt_pastNumber, fieldAt_pastVector, fieldAt_first, fieldAt_only, readVector_pastIdentity,
    readVector_pastNumber, readVector_first vector, census, census_slots census]

section
variable {id : Identity} {tickets : Nat} {account : AccountState} {claims : List ListedClaim}

theorem fieldAt_stateCount (few : claims.length ≤ 2) :
    fieldAt (Payload.state id tickets account claims).bytes 16 1 = claims.length := by
  simp (disch := omega) [Payload.bytes, fieldAt_pastIdentity, fieldAt_pastNumber, fieldAt_first]

/-- The claims of a STATE follow its first 17 bytes. -/
theorem drop_stateOpening : (Payload.state id tickets account claims).bytes.drop 17 =
    claims.flatMap ListedClaim.bytes := by
  rw [Payload.bytes]
  exact List.drop_left' (by simp)

theorem readPayload_state (fits : (Payload.state id tickets account claims).Fits) :
    readPayload .state (Payload.state id tickets account claims).bytes = some (.state id tickets account claims) := by
  obtain ⟨ticketsFit, few, each⟩ := fits
  have code := account.code_le
  rw [readPayload, fieldAt_stateCount few, drop_stateOpening, readClaims_bytes each]
  simp (disch := omega) [Payload.bytes, readIdentityFields_first, fieldAt_pastIdentity, fieldAt_pastNumber,
    fieldAt_first]

end

/-- No field of a payload fails the third test, and each is read as it was written (R156, R206). -/
theorem readPayload_bytes {p : Payload} (fits : p.Fits) : readPayload p.kind p.bytes = some p := by
  cases p with
  | verdict n v bath => exact readPayload_verdict n v bath
  | release n | fetch n => simp (disch := omega) [readPayload, Payload.kind, Payload.bytes, fieldAt_only]
  | vacate r => simp (disch := omega) [readPayload, Payload.kind, Payload.bytes, fieldAt_only]
  | claim c => exact congrArg (Option.map Payload.claim) (readClaim_bytes fits)
  | entry => exact readPayload_entry fits
  | gap seq | gone seq => exact congrArg (some ∘ _) (fieldAt_only fits)
  | snapshot => exact readPayload_snapshot fits
  | beacon => exact readPayload_beacon fits
  | join id => exact congrArg (Option.map Payload.join) (readIdentityFields_only id)
  | state => exact readPayload_state fits

/-- A payload has the length its kind calls for (R206). -/
theorem Payload.length_bytes {p : Payload} (fits : p.Fits) : p.bytes.length = p.kind.size p.bytes := by
  cases p with
  | entry seq kind amount time dipId =>
      obtain ⟨_, _, draws, _⟩ := fits
      rw [Payload.kind, FrameKind.size, fieldAt_entryCode]
      simp only [EntryKind.code_eq_zero_iff, ← draws]
      cases dipId <;> simp [bytes]
  | state id tickets account claims =>
      obtain ⟨_, few, _⟩ := fits
      rw [kind, FrameKind.size, fieldAt_stateCount few]
      simp only [bytes, List.length_append, length_bytesOf, Identity.length_bytes,
        length_flatMap_of_length ListedClaim.length_bytes]
  | _ => simp [bytes, kind, FrameKind.size]

theorem Payload.stateCount_le {p : Payload} (fits : p.Fits) (state : p.kind = .state) : fieldAt p.bytes 16 1 ≤ 2 := by
  cases p with
  | state id tickets account claims =>
      obtain ⟨_, few, _⟩ := fits
      rwa [fieldAt_stateCount few]
  | _ => cases state

theorem FrameKind.size_lt {k : FrameKind} {p : List Byte} (few : k = .state → fieldAt p 16 1 ≤ 2) :
    k.size p < 256 := by
  cases k with
  | entry => rw [size]; split <;> decide
  | state => have := few rfl; rw [size]; omega
  | _ => simp [size]

/-- Every length is one that the length character can give. -/
theorem Payload.length_bytes_lt {p : Payload} (fits : p.Fits) : p.bytes.length < 256 :=
  length_bytes fits ▸ FrameKind.size_lt (stateCount_le fits)

/-! ## The frame around the payload (R206) -/

theorem FrameKind.classCode_le (k : FrameKind) : k.classCode.1 ≤ 3 ∧ k.classCode.2 ≤ 7 := by cases k <;> decide

theorem toNat_arbitrationByte (k : FrameKind) (origin : Rank) :
    (arbitrationByte k origin).toNat = k.classCode.1 * 64 + origin.val * 8 + k.classCode.2 := by
  obtain ⟨cls, code⟩ := k.classCode_le
  rw [arbitrationByte, BitVec.toNat_ofNat, Nat.mod_eq_of_lt (by omega)]

/-- Class and kind code are read from character 1 as they stand in it. -/
theorem classCode_arbitrationByte (k : FrameKind) (origin : Rank) :
    k.classCode = ((arbitrationByte k origin).toNat / 64, (arbitrationByte k origin).toNat % 8) := by
  obtain ⟨cls, code⟩ := k.classCode_le
  rw [toNat_arbitrationByte]
  exact Prod.ext (by omega) (by omega)

theorem origin_arbitrationByte (k : FrameKind) (origin : Rank) :
    (arbitrationByte k origin).toNat / 8 % 8 = origin.val := by
  obtain ⟨cls, code⟩ := k.classCode_le
  rw [toNat_arbitrationByte]
  omega

section
variable (f : Frame)

theorem Frame.chars_eq : f.chars = 0xAA#8 :: arbitrationByte f.payload.kind f.origin :: f.dest.byte ::
    BitVec.ofNat 8 f.payload.bytes.length :: (f.payload.bytes ++ (checkBytes f.checked ++ [0x7E#8])) := by
  simp [Frame.chars, Frame.checked]

variable {f} (fits : f.payload.Fits)
include fits

theorem Frame.toNat_lengthChar : (BitVec.ofNat 8 f.payload.bytes.length).toNat = f.payload.bytes.length :=
  Nat.mod_eq_of_lt (Payload.length_bytes_lt fits)

/-- A frame as it is sent passes the first test. -/
theorem Frame.wire_wellFramed (noisy fromStart : Bool) :
    WellFramed (f.wire noisy fromStart) 0xAA#8 (arbitrationByte f.payload.kind f.origin) f.dest.byte
      (BitVec.ofNat 8 f.payload.bytes.length) (f.payload.bytes ++ (checkBytes f.checked ++ [0x7E#8]))
      f.payload.kind := by
  have dest := (Dest.ofByte_isSome f.dest.byte).mp (by rw [(Dest.ofByte_eq_some_iff _ f.dest).mpr rfl]; rfl)
  refine ⟨rfl, rfl, classCode_arbitrationByte _ _, dest, ?_⟩
  rw [Frame.toNat_lengthChar fits, List.take_left' rfl, checkBytes, bytesOf_two]
  exact ⟨Payload.length_bytes fits, Payload.stateCount_le fits, _, _, rfl⟩

/-- The second and the third test give the frame back. -/
theorem Frame.testContents_checked :
    testContents (arbitrationByte f.payload.kind f.origin) f.dest.byte (BitVec.ofNat 8 f.payload.bytes.length)
      f.payload.kind f.dest f.payload.bytes (checkBytes f.checked) = .good f := by
  unfold testContents
  rw [readPayload_bytes fits]
  refine (if_pos rfl).trans (congrArg (fun origin => FrameTest.good ⟨origin, f.dest, f.payload⟩) ?_)
  exact Fin.ext (origin_arbitrationByte _ _)

end

/-- Settles O7: the frame passes the first test, and what the other two read of it is what was written. -/
theorem framesReadBackWhole : Obligations.FramesReadBackWhole := by
  intro f noisy fromStart fits
  obtain ⟨d, dest, contents⟩ := testFrame_wellFramed f.chars_eq (f.wire_wellFramed fits noisy fromStart)
  obtain rfl : f.dest = d := Option.some.inj (((Dest.ofByte_eq_some_iff _ _).mpr rfl).symm.trans dest)
  have check : (checkBytes f.checked).length = 2 := length_bytesOf _ _
  rw [contents, Frame.toNat_lengthChar fits, List.take_left' rfl, List.drop_left' rfl, List.take_left' check]
  exact Frame.testContents_checked fits

end Sys2Proof.Machine
end
